-- ==== Sys2Proof/Word.lean ====
section
/-! DEFINITION. The bit vectors the spec works with (00_scope.md R5): names for the widths, and the two
constant words it names (00_scope.md section 6.1). Everything that computes on them stands in `Machine/`. -/

namespace Sys2Proof

/-- A register value: a "64-bit integer" (R5, R11). -/
abbrev Value := BitVec 64

/-- A byte address of the one 64-bit address space (R5, R15). -/
abbrev Addr := BitVec 64

/-- An instruction word, a squash mask, a bus data word or a lane mask: 32 bits each (R5). -/
abbrev IWord := BitVec 32

/-- The unit of addressing (R15). -/
abbrev Byte := BitVec 8

/-- A register number: the `rs`, `rt` and `rd` fields (R61), an index 0 to 31. -/
abbrev Reg := BitVec 5

/-- The 16-bit immediate (R61). -/
abbrev Imm := BitVec 16

/-- An extended destination index: 0 to 31 general-purpose, 32 to 63 control registers (R14, R19). -/
abbrev Dest := BitVec 6

/-- `ONES64` of the notation (00_scope.md 6.1). -/
abbrev ones64 : Value := 0xFFFFFFFFFFFFFFFF#64

/-- `ONES32` of the notation (00_scope.md 6.1). -/
abbrev ones32 : IWord := 0xFFFFFFFF#32

end Sys2Proof
end

