-- ==== Sys2Proof/Syntax.lean ====
section
/-! DEFINITION. The instructions of `spec/opcode_table.json`, one constructor per row, in the table's order,
with the operands the row's `uses` column names; the 18 opcode identifiers (40_dispatch_and_tables.md R90);
and the names of the four faults (60_exceptions.md R230).

Operands stand destination first (30_encoding.md R81). A field an instruction does not use is no operand of it
(R72). The shift amount is a count, so it is a `Nat`, kept below 32 by `WellFormed`. -/

namespace Sys2Proof

/-- An instruction (30_encoding.md R70). Each constructor names the rule that gives its meaning. -/
inductive Instr where
  /-- `SLL` (R127). -/
  | sll (rd rt : Reg) (sa : Nat)
  /-- `SRL` (R130). -/
  | srl (rd rt : Reg) (sa : Nat)
  /-- `JR` (R171). -/
  | jr (rs : Reg)
  /-- `JALR` (R170). -/
  | jalr (rd rs : Reg)
  /-- `ADD` (R112). -/
  | add (rd rs rt : Reg)
  /-- `ADDU` (R118). -/
  | addu (rd rs rt : Reg)
  /-- `SUB` (R113). -/
  | sub (rd rs rt : Reg)
  /-- `SUBU` (R119). -/
  | subu (rd rs rt : Reg)
  /-- `AND` (R122). -/
  | and (rd rs rt : Reg)
  /-- `OR` (R123). -/
  | or (rd rs rt : Reg)
  /-- `XOR` (R124). -/
  | xor (rd rs rt : Reg)
  /-- `BLTZ` (R159). -/
  | bltz (rs : Reg) (imm : Imm)
  /-- `BGEZ` (R157). -/
  | bgez (rs : Reg) (imm : Imm)
  /-- `BLTZL` (R160). -/
  | bltzl (rs : Reg) (imm : Imm)
  /-- `BGEZL` (R158). -/
  | bgezl (rs : Reg) (imm : Imm)
  /-- `BLTZAL` (R167). -/
  | bltzal (rs : Reg) (imm : Imm)
  /-- `BGEZAL` (R165). -/
  | bgezal (rs : Reg) (imm : Imm)
  /-- `BLTZALL` (R168). -/
  | bltzall (rs : Reg) (imm : Imm)
  /-- `BGEZALL` (R166). -/
  | bgezall (rs : Reg) (imm : Imm)
  /-- `BEQ` (R153). -/
  | beq (rs rt : Reg) (imm : Imm)
  /-- `BNE` (R154). -/
  | bne (rs rt : Reg) (imm : Imm)
  /-- `BLEZ` (R163). -/
  | blez (rs : Reg) (imm : Imm)
  /-- `BGTZ` (R161). -/
  | bgtz (rs : Reg) (imm : Imm)
  /-- `ADDI` (R114). -/
  | addi (rt rs : Reg) (imm : Imm)
  /-- `ADDIU` (R115). -/
  | addiu (rt rs : Reg) (imm : Imm)
  /-- `ANDI` (R125). -/
  | andi (rt rs : Reg) (imm : Imm)
  /-- `ORI` (R126). -/
  | ori (rt rs : Reg) (imm : Imm)
  /-- `XORI` (R128). -/
  | xori (rt rs : Reg) (imm : Imm)
  /-- `LUI` (R129). -/
  | lui (rt : Reg) (imm : Imm)
  /-- `BEQL` (R155). -/
  | beql (rs rt : Reg) (imm : Imm)
  /-- `BNEL` (R156). -/
  | bnel (rs rt : Reg) (imm : Imm)
  /-- `BLEZL` (R164). -/
  | blezl (rs : Reg) (imm : Imm)
  /-- `BGTZL` (R162). -/
  | bgtzl (rs : Reg) (imm : Imm)
  /-- `LB` (R192). -/
  | lb (rt rs : Reg) (imm : Imm)
  /-- `LH` (R194). -/
  | lh (rt rs : Reg) (imm : Imm)
  /-- `LW` (R196). -/
  | lw (rt rs : Reg) (imm : Imm)
  /-- `LBU` (R193). -/
  | lbu (rt rs : Reg) (imm : Imm)
  /-- `LHU` (R195). -/
  | lhu (rt rs : Reg) (imm : Imm)
  /-- `LWU` (R197). -/
  | lwu (rt rs : Reg) (imm : Imm)
  /-- `SB` (R199). -/
  | sb (rt rs : Reg) (imm : Imm)
  /-- `SH` (R200). -/
  | sh (rt rs : Reg) (imm : Imm)
  /-- `SW` (R201). -/
  | sw (rt rs : Reg) (imm : Imm)
  /-- `MTC0` (R220). -/
  | mtc0 (rt rd : Reg)
  deriving DecidableEq, Repr

/-- The 18 opcode identifiers, in the order of R90: `invalid` is id 0, `mtcx` id 17. -/
inductive OpcodeId where
  | invalid
  | addSub
  | addiSubi
  | addiuSubiu
  | adduSubu
  | andOrXor
  | andiOriXori
  | lui
  | sll
  | srl
  | beqBne
  | bltzBgez
  | blezBgtz
  | bltzalBgezal
  | jalrJr
  | load
  | store
  | mtcx
  deriving DecidableEq, Repr

/-- The taxonomy of faults (R230): "These four are all the faults CORE can raise". -/
inductive FaultKind where
  /-- Raised by ADD, SUB, ADDI (and the unencoded SUBI) when bits 32 and 31 of the raw sum differ (R111). -/
  | integerOverflow
  /-- Raised by the INVALID handler, always (R225). -/
  | unimplementedOpcode
  /-- Raised by the LOAD and STORE handlers for size code 2 (R202); no decodable word reaches it. -/
  | reservedInstruction
  /-- Raised by LH, LHU, LW, LWU, SH, SW when the effective address is not a multiple of the size (R48). -/
  | unalignedAddress
  deriving DecidableEq, Repr

/-- The opcode identifier of an instruction's group (the second column of R90's table, read backwards). -/
def Instr.opcodeId : Instr → OpcodeId
  | .sll _ _ _ => .sll
  | .srl _ _ _ => .srl
  | .jr _ => .jalrJr
  | .jalr _ _ => .jalrJr
  | .add _ _ _ => .addSub
  | .addu _ _ _ => .adduSubu
  | .sub _ _ _ => .addSub
  | .subu _ _ _ => .adduSubu
  | .and _ _ _ => .andOrXor
  | .or _ _ _ => .andOrXor
  | .xor _ _ _ => .andOrXor
  | .bltz _ _ => .bltzBgez
  | .bgez _ _ => .bltzBgez
  | .bltzl _ _ => .bltzBgez
  | .bgezl _ _ => .bltzBgez
  | .bltzal _ _ => .bltzalBgezal
  | .bgezal _ _ => .bltzalBgezal
  | .bltzall _ _ => .bltzalBgezal
  | .bgezall _ _ => .bltzalBgezal
  | .beq _ _ _ => .beqBne
  | .bne _ _ _ => .beqBne
  | .blez _ _ => .blezBgtz
  | .bgtz _ _ => .blezBgtz
  | .addi _ _ _ => .addiSubi
  | .addiu _ _ _ => .addiuSubiu
  | .andi _ _ _ => .andiOriXori
  | .ori _ _ _ => .andiOriXori
  | .xori _ _ _ => .andiOriXori
  | .lui _ _ => .lui
  | .beql _ _ _ => .beqBne
  | .bnel _ _ _ => .beqBne
  | .blezl _ _ => .blezBgtz
  | .bgtzl _ _ => .blezBgtz
  | .lb _ _ _ => .load
  | .lh _ _ _ => .load
  | .lw _ _ _ => .load
  | .lbu _ _ _ => .load
  | .lhu _ _ _ => .load
  | .lwu _ _ _ => .load
  | .sb _ _ _ => .store
  | .sh _ _ _ => .store
  | .sw _ _ _ => .store
  | .mtc0 _ _ => .mtcx

/-- The instruction's mnemonic, as `spec/opcode_table.json` spells it. -/
def Instr.mnemonic : Instr → String
  | .sll _ _ _ => "SLL"
  | .srl _ _ _ => "SRL"
  | .jr _ => "JR"
  | .jalr _ _ => "JALR"
  | .add _ _ _ => "ADD"
  | .addu _ _ _ => "ADDU"
  | .sub _ _ _ => "SUB"
  | .subu _ _ _ => "SUBU"
  | .and _ _ _ => "AND"
  | .or _ _ _ => "OR"
  | .xor _ _ _ => "XOR"
  | .bltz _ _ => "BLTZ"
  | .bgez _ _ => "BGEZ"
  | .bltzl _ _ => "BLTZL"
  | .bgezl _ _ => "BGEZL"
  | .bltzal _ _ => "BLTZAL"
  | .bgezal _ _ => "BGEZAL"
  | .bltzall _ _ => "BLTZALL"
  | .bgezall _ _ => "BGEZALL"
  | .beq _ _ _ => "BEQ"
  | .bne _ _ _ => "BNE"
  | .blez _ _ => "BLEZ"
  | .bgtz _ _ => "BGTZ"
  | .addi _ _ _ => "ADDI"
  | .addiu _ _ _ => "ADDIU"
  | .andi _ _ _ => "ANDI"
  | .ori _ _ _ => "ORI"
  | .xori _ _ _ => "XORI"
  | .lui _ _ => "LUI"
  | .beql _ _ _ => "BEQL"
  | .bnel _ _ _ => "BNEL"
  | .blezl _ _ => "BLEZL"
  | .bgtzl _ _ => "BGTZL"
  | .lb _ _ _ => "LB"
  | .lh _ _ _ => "LH"
  | .lw _ _ _ => "LW"
  | .lbu _ _ _ => "LBU"
  | .lhu _ _ _ => "LHU"
  | .lwu _ _ _ => "LWU"
  | .sb _ _ _ => "SB"
  | .sh _ _ _ => "SH"
  | .sw _ _ _ => "SW"
  | .mtc0 _ _ => "MTC0"

end Sys2Proof
end

