-- ==== Sys2Proof/WellFormed.lean ====
section
/-! DEFINITION. Which instructions are well formed. Register numbers and immediates have the width of their
field by type, so the one check left is the range of the 5-bit shift amount (30_encoding.md R66, R81:
"sa 0..31"). -/

namespace Sys2Proof

/-- Every operand fits the field that encodes it (R61, R66). -/
def Instr.WellFormed : Instr → Bool
  | .sll _ _ sa => decide (sa < 32)
  | .srl _ _ sa => decide (sa < 32)
  | .jr _ => true
  | .jalr _ _ => true
  | .add _ _ _ => true
  | .addu _ _ _ => true
  | .sub _ _ _ => true
  | .subu _ _ _ => true
  | .and _ _ _ => true
  | .or _ _ _ => true
  | .xor _ _ _ => true
  | .bltz _ _ => true
  | .bgez _ _ => true
  | .bltzl _ _ => true
  | .bgezl _ _ => true
  | .bltzal _ _ => true
  | .bgezal _ _ => true
  | .bltzall _ _ => true
  | .bgezall _ _ => true
  | .beq _ _ _ => true
  | .bne _ _ _ => true
  | .blez _ _ => true
  | .bgtz _ _ => true
  | .addi _ _ _ => true
  | .addiu _ _ _ => true
  | .andi _ _ _ => true
  | .ori _ _ _ => true
  | .xori _ _ _ => true
  | .lui _ _ => true
  | .beql _ _ _ => true
  | .bnel _ _ _ => true
  | .blezl _ _ => true
  | .bgtzl _ _ => true
  | .lb _ _ _ => true
  | .lh _ _ _ => true
  | .lw _ _ _ => true
  | .lbu _ _ _ => true
  | .lhu _ _ _ => true
  | .lwu _ _ _ => true
  | .sb _ _ _ => true
  | .sh _ _ _ => true
  | .sw _ _ _ => true
  | .mtc0 _ _ => true

end Sys2Proof
end

