-- ==== Sys2Proof/Decode.lean ====
section
/-! DEFINITION. Decoding and encoding (30_encoding.md): the fields of an instruction word (R61), `Decode` (R70)
total on every word and naming what it rejects, the decoder over bytes in fetch order (20_memory.md R43, R49),
the encoder with unused fields zero (R62 to R65, R72), and the opcode table as data. The bit positions and opcode
values are the spec's decision D1/D2 (log entry 3). -/

namespace Sys2Proof

/-! ## Fields (R61) -/

/-- `op`, bits 31:26. -/
def fieldOp (w : IWord) : BitVec 6 := w.extractLsb' 26 6
/-- `rs`, bits 25:21. -/
def fieldRs (w : IWord) : Reg := w.extractLsb' 21 5
/-- `rt`, bits 20:16. -/
def fieldRt (w : IWord) : Reg := w.extractLsb' 16 5
/-- `rd`, bits 15:11. -/
def fieldRd (w : IWord) : Reg := w.extractLsb' 11 5
/-- `sa`, bits 10:6. -/
def fieldSa (w : IWord) : BitVec 5 := w.extractLsb' 6 5
/-- `funct`, bits 5:0. -/
def fieldFunct (w : IWord) : BitVec 6 := w.extractLsb' 0 6
/-- `imm16`, bits 15:0. -/
def fieldImm (w : IWord) : Imm := w.extractLsb' 0 16

/-! ## Decode (R70) -/

/-- Why a word, or a list of bytes, is no instruction in scope. Every word rejected by one of the last four has
the opcode id INVALID (R73). -/
inductive DecodeError where
  /-- Fewer than four bytes were given: an instruction is one 32-bit word (R60). -/
  | truncated
  /-- The major opcode `op` is in none of R70's rows. -/
  | majorOpcode (op : BitVec 6)
  /-- `op` = 0 and `funct` is in no row of the SPECIAL table. -/
  | specialFunct (funct : BitVec 6)
  /-- `op` = 1 and bits 20:16 are in no row of the REGIMM table. -/
  | regimmSub (sub : BitVec 5)
  /-- `op` = 16 and bits 25:21 are not MT (R65, R221). -/
  | cop0Sub (sub : BitVec 5)
  deriving DecidableEq, Repr

/-- The SPECIAL rows of R70, by `funct`. -/
def decodeSpecial (w : IWord) : Except DecodeError Instr :=
  match fieldFunct w with
  | 0x00#6 => .ok (.sll (fieldRd w) (fieldRt w) (fieldSa w).toNat)
  | 0x02#6 => .ok (.srl (fieldRd w) (fieldRt w) (fieldSa w).toNat)
  | 0x08#6 => .ok (.jr (fieldRs w))
  | 0x09#6 => .ok (.jalr (fieldRd w) (fieldRs w))
  | 0x20#6 => .ok (.add (fieldRd w) (fieldRs w) (fieldRt w))
  | 0x21#6 => .ok (.addu (fieldRd w) (fieldRs w) (fieldRt w))
  | 0x22#6 => .ok (.sub (fieldRd w) (fieldRs w) (fieldRt w))
  | 0x23#6 => .ok (.subu (fieldRd w) (fieldRs w) (fieldRt w))
  | 0x24#6 => .ok (.and (fieldRd w) (fieldRs w) (fieldRt w))
  | 0x25#6 => .ok (.or (fieldRd w) (fieldRs w) (fieldRt w))
  | 0x26#6 => .ok (.xor (fieldRd w) (fieldRs w) (fieldRt w))
  | f => .error (.specialFunct f)

/-- The REGIMM rows of R70, by bits 20:16. -/
def decodeRegimm (w : IWord) : Except DecodeError Instr :=
  match fieldRt w with
  | 0x00#5 => .ok (.bltz (fieldRs w) (fieldImm w))
  | 0x01#5 => .ok (.bgez (fieldRs w) (fieldImm w))
  | 0x02#5 => .ok (.bltzl (fieldRs w) (fieldImm w))
  | 0x03#5 => .ok (.bgezl (fieldRs w) (fieldImm w))
  | 0x10#5 => .ok (.bltzal (fieldRs w) (fieldImm w))
  | 0x11#5 => .ok (.bgezal (fieldRs w) (fieldImm w))
  | 0x12#5 => .ok (.bltzall (fieldRs w) (fieldImm w))
  | 0x13#5 => .ok (.bgezall (fieldRs w) (fieldImm w))
  | r => .error (.regimmSub r)

/-- The COP0 line of R70: only MT, bits 25:21 = 00100, is an instruction (R65, R221). -/
def decodeCop0 (w : IWord) : Except DecodeError Instr :=
  match fieldRs w with
  | 0x04#5 => .ok (.mtc0 (fieldRt w) (fieldRd w))
  | r => .error (.cop0Sub r)

/-- `Decode(iw)` (R70): by `op`, then by the second opcode field of the three groups that have one. -/
def decode (w : IWord) : Except DecodeError Instr :=
  match fieldOp w with
  | 0x00#6 => decodeSpecial w
  | 0x01#6 => decodeRegimm w
  | 0x04#6 => .ok (.beq (fieldRs w) (fieldRt w) (fieldImm w))
  | 0x05#6 => .ok (.bne (fieldRs w) (fieldRt w) (fieldImm w))
  | 0x06#6 => .ok (.blez (fieldRs w) (fieldImm w))
  | 0x07#6 => .ok (.bgtz (fieldRs w) (fieldImm w))
  | 0x08#6 => .ok (.addi (fieldRt w) (fieldRs w) (fieldImm w))
  | 0x09#6 => .ok (.addiu (fieldRt w) (fieldRs w) (fieldImm w))
  | 0x0C#6 => .ok (.andi (fieldRt w) (fieldRs w) (fieldImm w))
  | 0x0D#6 => .ok (.ori (fieldRt w) (fieldRs w) (fieldImm w))
  | 0x0E#6 => .ok (.xori (fieldRt w) (fieldRs w) (fieldImm w))
  | 0x0F#6 => .ok (.lui (fieldRt w) (fieldImm w))
  | 0x10#6 => decodeCop0 w
  | 0x14#6 => .ok (.beql (fieldRs w) (fieldRt w) (fieldImm w))
  | 0x15#6 => .ok (.bnel (fieldRs w) (fieldRt w) (fieldImm w))
  | 0x16#6 => .ok (.blezl (fieldRs w) (fieldImm w))
  | 0x17#6 => .ok (.bgtzl (fieldRs w) (fieldImm w))
  | 0x20#6 => .ok (.lb (fieldRt w) (fieldRs w) (fieldImm w))
  | 0x21#6 => .ok (.lh (fieldRt w) (fieldRs w) (fieldImm w))
  | 0x23#6 => .ok (.lw (fieldRt w) (fieldRs w) (fieldImm w))
  | 0x24#6 => .ok (.lbu (fieldRt w) (fieldRs w) (fieldImm w))
  | 0x25#6 => .ok (.lhu (fieldRt w) (fieldRs w) (fieldImm w))
  | 0x27#6 => .ok (.lwu (fieldRt w) (fieldRs w) (fieldImm w))
  | 0x28#6 => .ok (.sb (fieldRt w) (fieldRs w) (fieldImm w))
  | 0x29#6 => .ok (.sh (fieldRt w) (fieldRs w) (fieldImm w))
  | 0x2B#6 => .ok (.sw (fieldRt w) (fieldRs w) (fieldImm w))
  | o => .error (.majorOpcode o)

/-- The opcode identifier of a word: that of its instruction, or INVALID for a word `decode` rejects (R70, R73). -/
def decodeId (w : IWord) : OpcodeId :=
  match decode w with
  | .ok i => i.opcodeId
  | .error _ => .invalid

/-! ## Words and bytes (R43, R49: big-endian fetch) -/

/-- The four bytes of a word, the one at the lowest address first. -/
def wordBytes (w : IWord) : List Byte :=
  [w.extractLsb' 24 8, w.extractLsb' 16 8, w.extractLsb' 8 8, w.extractLsb' 0 8]

/-- The word that four bytes in address order make: the first is the most significant (R44). -/
def bytesWord (b0 b1 b2 b3 : Byte) : IWord :=
  b0.setWidth 32 <<< 24 ||| b1.setWidth 32 <<< 16 ||| b2.setWidth 32 <<< 8 ||| b3.setWidth 32

/-- The halfword that two bytes in address order make. -/
def bytesHalf (b0 b1 : Byte) : BitVec 16 := b0.setWidth 16 <<< 8 ||| b1.setWidth 16

/-- The decoder over bytes in address order: an instruction and the bytes after it, or a named rejection. -/
def decodeBytes : List Byte → Except DecodeError (Instr × List Byte)
  | b0 :: b1 :: b2 :: b3 :: rest =>
    match decode (bytesWord b0 b1 b2 b3) with
    | .ok i => .ok (i, rest)
    | .error e => .error e
  | _ => .error .truncated

/-- The instruction the decoder reads from a table row's bits `w`, of which the low `nbits` count: the word they
make, laid out in memory order. -/
def decodeTableWord (nbits w : Nat) : Option Instr :=
  match decodeBytes (wordBytes (BitVec.ofNat 32 (w % 2 ^ nbits))) with
  | .ok (i, _) => some i
  | .error _ => none

/-! ## Encode (R62 to R65) -/

/-- Format R (R62). -/
def packR (op : BitVec 6) (rs rt rd : Reg) (sa : BitVec 5) (funct : BitVec 6) : IWord :=
  op.setWidth 32 <<< 26 ||| rs.setWidth 32 <<< 21 ||| rt.setWidth 32 <<< 16 ||| rd.setWidth 32 <<< 11
    ||| sa.setWidth 32 <<< 6 ||| funct.setWidth 32

/-- Formats I and RI (R63, R64). -/
def packI (op : BitVec 6) (rs rt : Reg) (imm : Imm) : IWord :=
  op.setWidth 32 <<< 26 ||| rs.setWidth 32 <<< 21 ||| rt.setWidth 32 <<< 16 ||| imm.setWidth 32

/-- The word of an instruction, with zeros in the fields it does not use (R62 to R65, R70, R72). -/
def encode : Instr → IWord
  | .sll rd rt sa => packR 0x00 0 rt rd (BitVec.ofNat 5 sa) 0x00
  | .srl rd rt sa => packR 0x00 0 rt rd (BitVec.ofNat 5 sa) 0x02
  | .jr rs => packR 0x00 rs 0 0 0 0x08
  | .jalr rd rs => packR 0x00 rs 0 rd 0 0x09
  | .add rd rs rt => packR 0x00 rs rt rd 0 0x20
  | .addu rd rs rt => packR 0x00 rs rt rd 0 0x21
  | .sub rd rs rt => packR 0x00 rs rt rd 0 0x22
  | .subu rd rs rt => packR 0x00 rs rt rd 0 0x23
  | .and rd rs rt => packR 0x00 rs rt rd 0 0x24
  | .or rd rs rt => packR 0x00 rs rt rd 0 0x25
  | .xor rd rs rt => packR 0x00 rs rt rd 0 0x26
  | .bltz rs imm => packI 0x01 rs 0x00 imm
  | .bgez rs imm => packI 0x01 rs 0x01 imm
  | .bltzl rs imm => packI 0x01 rs 0x02 imm
  | .bgezl rs imm => packI 0x01 rs 0x03 imm
  | .bltzal rs imm => packI 0x01 rs 0x10 imm
  | .bgezal rs imm => packI 0x01 rs 0x11 imm
  | .bltzall rs imm => packI 0x01 rs 0x12 imm
  | .bgezall rs imm => packI 0x01 rs 0x13 imm
  | .beq rs rt imm => packI 0x04 rs rt imm
  | .bne rs rt imm => packI 0x05 rs rt imm
  | .blez rs imm => packI 0x06 rs 0 imm
  | .bgtz rs imm => packI 0x07 rs 0 imm
  | .addi rt rs imm => packI 0x08 rs rt imm
  | .addiu rt rs imm => packI 0x09 rs rt imm
  | .andi rt rs imm => packI 0x0C rs rt imm
  | .ori rt rs imm => packI 0x0D rs rt imm
  | .xori rt rs imm => packI 0x0E rs rt imm
  | .lui rt imm => packI 0x0F 0 rt imm
  | .beql rs rt imm => packI 0x14 rs rt imm
  | .bnel rs rt imm => packI 0x15 rs rt imm
  | .blezl rs imm => packI 0x16 rs 0 imm
  | .bgtzl rs imm => packI 0x17 rs 0 imm
  | .lb rt rs imm => packI 0x20 rs rt imm
  | .lh rt rs imm => packI 0x21 rs rt imm
  | .lw rt rs imm => packI 0x23 rs rt imm
  | .lbu rt rs imm => packI 0x24 rs rt imm
  | .lhu rt rs imm => packI 0x25 rs rt imm
  | .lwu rt rs imm => packI 0x27 rs rt imm
  | .sb rt rs imm => packI 0x28 rs rt imm
  | .sh rt rs imm => packI 0x29 rs rt imm
  | .sw rt rs imm => packI 0x2B rs rt imm
  | .mtc0 rt rd => packR 0x10 0x04 rt rd 0 0

/-! ## The opcode table as data -/

/-- A row of `spec/opcode_table.json`: a word is the row's when `word &&& mask = value`. -/
structure TableRow where
  mnemonic : String
  mask : IWord
  value : IWord
  deriving DecidableEq, Repr

/-- The row matches the word. -/
def TableRow.matches (r : TableRow) (w : IWord) : Bool := w &&& r.mask == r.value

/-- The SPECIAL rows. -/
def tableSpecial : List TableRow := [
  ⟨"SLL", 0xFC00003F, 0x00000000⟩,
  ⟨"SRL", 0xFC00003F, 0x00000002⟩,
  ⟨"JR", 0xFC00003F, 0x00000008⟩,
  ⟨"JALR", 0xFC00003F, 0x00000009⟩,
  ⟨"ADD", 0xFC00003F, 0x00000020⟩,
  ⟨"ADDU", 0xFC00003F, 0x00000021⟩,
  ⟨"SUB", 0xFC00003F, 0x00000022⟩,
  ⟨"SUBU", 0xFC00003F, 0x00000023⟩,
  ⟨"AND", 0xFC00003F, 0x00000024⟩,
  ⟨"OR", 0xFC00003F, 0x00000025⟩,
  ⟨"XOR", 0xFC00003F, 0x00000026⟩]

/-- The REGIMM rows. -/
def tableRegimm : List TableRow := [
  ⟨"BLTZ", 0xFC1F0000, 0x04000000⟩,
  ⟨"BGEZ", 0xFC1F0000, 0x04010000⟩,
  ⟨"BLTZL", 0xFC1F0000, 0x04020000⟩,
  ⟨"BGEZL", 0xFC1F0000, 0x04030000⟩,
  ⟨"BLTZAL", 0xFC1F0000, 0x04100000⟩,
  ⟨"BGEZAL", 0xFC1F0000, 0x04110000⟩,
  ⟨"BLTZALL", 0xFC1F0000, 0x04120000⟩,
  ⟨"BGEZALL", 0xFC1F0000, 0x04130000⟩]

/-- The rows told apart by `op` alone, but for the loads and stores. -/
def tableImmediate : List TableRow := [
  ⟨"BEQ", 0xFC000000, 0x10000000⟩,
  ⟨"BNE", 0xFC000000, 0x14000000⟩,
  ⟨"BLEZ", 0xFC000000, 0x18000000⟩,
  ⟨"BGTZ", 0xFC000000, 0x1C000000⟩,
  ⟨"ADDI", 0xFC000000, 0x20000000⟩,
  ⟨"ADDIU", 0xFC000000, 0x24000000⟩,
  ⟨"ANDI", 0xFC000000, 0x30000000⟩,
  ⟨"ORI", 0xFC000000, 0x34000000⟩,
  ⟨"XORI", 0xFC000000, 0x38000000⟩,
  ⟨"LUI", 0xFC000000, 0x3C000000⟩,
  ⟨"BEQL", 0xFC000000, 0x50000000⟩,
  ⟨"BNEL", 0xFC000000, 0x54000000⟩,
  ⟨"BLEZL", 0xFC000000, 0x58000000⟩,
  ⟨"BGTZL", 0xFC000000, 0x5C000000⟩]

/-- The loads, the stores and MTC0. -/
def tableMemory : List TableRow := [
  ⟨"LB", 0xFC000000, 0x80000000⟩,
  ⟨"LH", 0xFC000000, 0x84000000⟩,
  ⟨"LW", 0xFC000000, 0x8C000000⟩,
  ⟨"LBU", 0xFC000000, 0x90000000⟩,
  ⟨"LHU", 0xFC000000, 0x94000000⟩,
  ⟨"LWU", 0xFC000000, 0x9C000000⟩,
  ⟨"SB", 0xFC000000, 0xA0000000⟩,
  ⟨"SH", 0xFC000000, 0xA4000000⟩,
  ⟨"SW", 0xFC000000, 0xAC000000⟩,
  ⟨"MTC0", 0xFFE00000, 0x40800000⟩]

/-- `spec/opcode_table.json`: 43 rows in the spec's order. -/
def opcodeTable : List TableRow := tableSpecial ++ tableRegimm ++ tableImmediate ++ tableMemory

/-- The row of an instruction, by its constructor. -/
def Instr.row : Instr → TableRow
  | .sll _ _ _ => ⟨"SLL", 0xFC00003F, 0x00000000⟩
  | .srl _ _ _ => ⟨"SRL", 0xFC00003F, 0x00000002⟩
  | .jr _ => ⟨"JR", 0xFC00003F, 0x00000008⟩
  | .jalr _ _ => ⟨"JALR", 0xFC00003F, 0x00000009⟩
  | .add _ _ _ => ⟨"ADD", 0xFC00003F, 0x00000020⟩
  | .addu _ _ _ => ⟨"ADDU", 0xFC00003F, 0x00000021⟩
  | .sub _ _ _ => ⟨"SUB", 0xFC00003F, 0x00000022⟩
  | .subu _ _ _ => ⟨"SUBU", 0xFC00003F, 0x00000023⟩
  | .and _ _ _ => ⟨"AND", 0xFC00003F, 0x00000024⟩
  | .or _ _ _ => ⟨"OR", 0xFC00003F, 0x00000025⟩
  | .xor _ _ _ => ⟨"XOR", 0xFC00003F, 0x00000026⟩
  | .bltz _ _ => ⟨"BLTZ", 0xFC1F0000, 0x04000000⟩
  | .bgez _ _ => ⟨"BGEZ", 0xFC1F0000, 0x04010000⟩
  | .bltzl _ _ => ⟨"BLTZL", 0xFC1F0000, 0x04020000⟩
  | .bgezl _ _ => ⟨"BGEZL", 0xFC1F0000, 0x04030000⟩
  | .bltzal _ _ => ⟨"BLTZAL", 0xFC1F0000, 0x04100000⟩
  | .bgezal _ _ => ⟨"BGEZAL", 0xFC1F0000, 0x04110000⟩
  | .bltzall _ _ => ⟨"BLTZALL", 0xFC1F0000, 0x04120000⟩
  | .bgezall _ _ => ⟨"BGEZALL", 0xFC1F0000, 0x04130000⟩
  | .beq _ _ _ => ⟨"BEQ", 0xFC000000, 0x10000000⟩
  | .bne _ _ _ => ⟨"BNE", 0xFC000000, 0x14000000⟩
  | .blez _ _ => ⟨"BLEZ", 0xFC000000, 0x18000000⟩
  | .bgtz _ _ => ⟨"BGTZ", 0xFC000000, 0x1C000000⟩
  | .addi _ _ _ => ⟨"ADDI", 0xFC000000, 0x20000000⟩
  | .addiu _ _ _ => ⟨"ADDIU", 0xFC000000, 0x24000000⟩
  | .andi _ _ _ => ⟨"ANDI", 0xFC000000, 0x30000000⟩
  | .ori _ _ _ => ⟨"ORI", 0xFC000000, 0x34000000⟩
  | .xori _ _ _ => ⟨"XORI", 0xFC000000, 0x38000000⟩
  | .lui _ _ => ⟨"LUI", 0xFC000000, 0x3C000000⟩
  | .beql _ _ _ => ⟨"BEQL", 0xFC000000, 0x50000000⟩
  | .bnel _ _ _ => ⟨"BNEL", 0xFC000000, 0x54000000⟩
  | .blezl _ _ => ⟨"BLEZL", 0xFC000000, 0x58000000⟩
  | .bgtzl _ _ => ⟨"BGTZL", 0xFC000000, 0x5C000000⟩
  | .lb _ _ _ => ⟨"LB", 0xFC000000, 0x80000000⟩
  | .lh _ _ _ => ⟨"LH", 0xFC000000, 0x84000000⟩
  | .lw _ _ _ => ⟨"LW", 0xFC000000, 0x8C000000⟩
  | .lbu _ _ _ => ⟨"LBU", 0xFC000000, 0x90000000⟩
  | .lhu _ _ _ => ⟨"LHU", 0xFC000000, 0x94000000⟩
  | .lwu _ _ _ => ⟨"LWU", 0xFC000000, 0x9C000000⟩
  | .sb _ _ _ => ⟨"SB", 0xFC000000, 0xA0000000⟩
  | .sh _ _ _ => ⟨"SH", 0xFC000000, 0xA4000000⟩
  | .sw _ _ _ => ⟨"SW", 0xFC000000, 0xAC000000⟩
  | .mtc0 _ _ => ⟨"MTC0", 0xFFE00000, 0x40800000⟩

/-- The bits of the word that the instruction's row fixes or that hold an operand it uses (R62 to R65); every
other bit is ignored (R72). -/
def Instr.usedBits : Instr → IWord
  | .sll _ _ _ => 0xFC1FFFFF
  | .srl _ _ _ => 0xFC1FFFFF
  | .jr _ => 0xFFE0003F
  | .jalr _ _ => 0xFFE0F83F
  | .add _ _ _ => 0xFFFFF83F
  | .addu _ _ _ => 0xFFFFF83F
  | .sub _ _ _ => 0xFFFFF83F
  | .subu _ _ _ => 0xFFFFF83F
  | .and _ _ _ => 0xFFFFF83F
  | .or _ _ _ => 0xFFFFF83F
  | .xor _ _ _ => 0xFFFFF83F
  | .bltz _ _ => 0xFFFFFFFF
  | .bgez _ _ => 0xFFFFFFFF
  | .bltzl _ _ => 0xFFFFFFFF
  | .bgezl _ _ => 0xFFFFFFFF
  | .bltzal _ _ => 0xFFFFFFFF
  | .bgezal _ _ => 0xFFFFFFFF
  | .bltzall _ _ => 0xFFFFFFFF
  | .bgezall _ _ => 0xFFFFFFFF
  | .beq _ _ _ => 0xFFFFFFFF
  | .bne _ _ _ => 0xFFFFFFFF
  | .blez _ _ => 0xFFE0FFFF
  | .bgtz _ _ => 0xFFE0FFFF
  | .addi _ _ _ => 0xFFFFFFFF
  | .addiu _ _ _ => 0xFFFFFFFF
  | .andi _ _ _ => 0xFFFFFFFF
  | .ori _ _ _ => 0xFFFFFFFF
  | .xori _ _ _ => 0xFFFFFFFF
  | .lui _ _ => 0xFC1FFFFF
  | .beql _ _ _ => 0xFFFFFFFF
  | .bnel _ _ _ => 0xFFFFFFFF
  | .blezl _ _ => 0xFFE0FFFF
  | .bgtzl _ _ => 0xFFE0FFFF
  | .lb _ _ _ => 0xFFFFFFFF
  | .lh _ _ _ => 0xFFFFFFFF
  | .lw _ _ _ => 0xFFFFFFFF
  | .lbu _ _ _ => 0xFFFFFFFF
  | .lhu _ _ _ => 0xFFFFFFFF
  | .lwu _ _ _ => 0xFFFFFFFF
  | .sb _ _ _ => 0xFFFFFFFF
  | .sh _ _ _ => 0xFFFFFFFF
  | .sw _ _ _ => 0xFFFFFFFF
  | .mtc0 _ _ => 0xFFFFF800

end Sys2Proof
end

