-- ==== Sys2Proof/Config.lean ====
section
/-! DEFINITION. What a machine built from this spec fixes (00_scope.md section 5), and the one open parameter no
rule gives a value for. Each constant names the log entry that says where it comes from. -/

namespace Sys2Proof

/-- RESET_PC, "an open 64-bit parameter of the model" (R34). PRESUMED (log entry 1), unsafe: the VR4300 value that
R34 says a model may pass. -/
def Config.resetPc : Addr := 0xFFFFFFFFBFC00000#64

/-- What `x[1..31]` hold at reset. R35 leaves it unspecified. DESIGN CHOICE (log entry 2), unsafe. -/
def Config.gprReset : Value := 0#64

/-- What `c[0..31]` hold at reset. R35 leaves it unspecified. DESIGN CHOICE (log entry 2), unsafe. -/
def Config.crReset : Value := 0#64

/-- `DEEX.current_pc` of the empty latch, which R33 leaves unspecified and nothing reads.
DESIGN CHOICE (log entry 4), unsafe. -/
def Config.emptyLatchPc : Addr := 0#64

/-- What a byte that the launch memory holds and that nothing has written reads as (R35, R51).
DESIGN CHOICE (log entry 5), unsafe. -/
def Config.unlistedByte : Byte := 0#8

/-- LINK_OFFSET: the link value is `current_pc + 4` (00_scope.md section 5, R172). -/
def Config.linkOffset : Addr := 4#64

/-- FAULT_VECTOR, "possibly one per fault kind" (92_eei_decisions.md section 1, R233): an open parameter, so it has
no body and no proof can see a value of it (log entry 6). -/
opaque Config.faultVector : FaultKind → Addr

end Sys2Proof
end

