-- ==== Sys2Proof/Machine/State.lean ====
section
/-! DEFINITION. The state of the machine: CORE's three latches (10_state.md R12 to R14) inside the reference
environment REF-ENV (70_reset_and_hazards.md R270) with its register files, its launch memory and its status, all as
plain data; the state after reset (R32 to R36); why a step can stop. The constant tables are definitions
(`Machine/Tables.lean`), since "no instruction changes them" (R28). -/

namespace Sys2Proof.Machine

/-- `size_bytes` of a request: 1, 2 or 4 (R40). -/
inductive AccessSize where
  | byte
  | half
  | word
  deriving DecidableEq, Repr

/-- `kind` of a request (R40). -/
inductive AccessKind where
  | read
  | write
  deriving DecidableEq, Repr

/-- A Bus Request (R40). -/
structure BusRequest where
  address : Addr
  kind : AccessKind
  size : AccessSize
  writeWord : IWord
  laneMask : IWord
  deriving DecidableEq, Repr

/-- The Decode/Execute latch (R13). -/
structure DeexLatch where
  iw : IWord
  iwSquashMask : IWord
  opcodeId : OpcodeId
  currentPc : Addr
  deriving DecidableEq, Repr

/-- The Execute/Memory latch (R14); `req` is the source's `pending_request`. -/
structure ExmemLatch where
  result : Value
  dest : Dest
  req : Option BusRequest
  deriving DecidableEq, Repr

/-- What a fault outcome carries (R231): the kind, `pc`, `iw`, and for `UnalignedAddress` the effective address and
the kind of access. -/
structure FaultInfo where
  kind : FaultKind
  pc : Addr
  iw : IWord
  access : Option (Addr × AccessKind)
  deriving DecidableEq, Repr

/-- The latch writes of an `Ok` handler invocation (R94): all of EXMEM; `next_pc` by a taken control transfer; the
squash mask by a branch handler. -/
structure LatchWrites where
  result : Value
  dest : Dest
  req : Option BusRequest
  nextPc : Option Addr
  squashMask : Option IWord
  deriving DecidableEq, Repr

/-- A handler's outcome (R94, R231). -/
inductive HandlerOutcome where
  | ok (w : LatchWrites)
  | fault (f : FaultInfo)
  deriving DecidableEq, Repr

/-- REF-ENV's status (R270). Its fourth value, `Refused(reason)`, has no successor state and is the outcome
`Host.Outcome.refused`. -/
inductive Status where
  /-- The next step handles an instruction. -/
  | running
  /-- The run has ended (R274). -/
  | ended
  /-- The last instruction raised a fault, recorded here (R233). -/
  | faulted (f : FaultInfo)
  deriving DecidableEq, Repr

/-- The program text a launch names (R274): `size` bytes from TEXT_BASE, so TEXT_END is `base + size`. -/
structure TextRange where
  base : Addr
  size : Nat
  deriving DecidableEq, Repr

/-- A run of addresses that the launch memory holds (R262 (d), 93_implementation_defined.md U16). -/
structure Region where
  base : Nat
  size : Nat
  deriving DecidableEq, Repr

/-- Bytes by address, in the canonical form that `Memory.wf` states: addresses rising, no entry equal to what an
unlisted address reads as. -/
abbrev Memory := List Host.Cell

/-- The machine's state. -/
structure State where
  /-- REF-ENV's `pc` (R270): the address of the word in the decode side, to be handled in this step; `none` when
  nothing has been fetched, after reset (R33) or a flush (R233). -/
  pc : Option Addr
  /-- `FETCH.next_pc` (R12); REF-ENV's `npc`. -/
  fetchNextPc : Addr
  /-- The Decode/Execute latch (R13), with the squash mask (R22). -/
  deex : DeexLatch
  /-- The Execute/Memory latch (R14). -/
  exmem : ExmemLatch
  /-- The general-purpose registers (R11); slot 0 is never read (R20). -/
  x : Vector Value 32
  /-- The control registers (R17). -/
  c : Vector Value 32
  /-- The contents of the launch memory (R44, R270). -/
  mem : Memory
  /-- Which addresses the launch memory holds, beside those of the program text (R51, R262 (d)). -/
  held : List Region
  /-- The program text of the launch (R273, R274); `none` before a launch names one. -/
  text : Option TextRange
  /-- REF-ENV's status (R270). -/
  status : Status
  deriving DecidableEq, Repr

/-- Why the machine takes no further step although it is not refused. -/
inductive Fault where
  /-- Raised by `step` in a state whose status is `faulted`: REF-ENV stops at a fault, with the fault recorded (R233,
  R270). Safe: nothing is concluded of what the surrounding hardware does next. -/
  | afterFault (f : FaultInfo)
  /-- Raised by `step` in a state whose status is `ended` (R274). Safe: the hardware would fetch on. -/
  | afterEnd
  deriving DecidableEq, Repr

/-- REF-ENV's `Refused(reason)`, and the arms that have no meaning. -/
inductive Refusal where
  /-- Raised by an arm of `exec` that has no meaning yet. Safe. -/
  | notModelled (mnemonic : String)
  /-- Raised by `step`: the address to fetch from is not a multiple of 4 (R273, R49), in the program text or not (log
  entry 16). Safe. -/
  | fetchMisaligned (pc : Addr)
  /-- Raised by `step`: the address to fetch from is a multiple of 4 outside the launch's program text (R273; log entry
  16). Safe. -/
  | fetchOutsideText (pc : Addr)
  /-- Raised by a store (SB, SH, SW) of which this byte falls in the program text (R56, R285). Safe. -/
  | storeIntoText (addr : Addr)
  /-- Raised by a load or store of which this byte is not held by the launch memory (R270,
  93_implementation_defined.md U16). Safe. -/
  | addressAbsent (addr : Addr)
  deriving DecidableEq, Repr

/-- The bubble (R24): the Execute/Memory latch value that commits nothing. -/
def bubble : ExmemLatch := { result := 0#64, dest := 0#6, req := none }

/-- The empty Decode/Execute latch (R33), its squash mask NORMAL (R32). -/
def emptyDeex : DeexLatch :=
  { iw := 0#32, iwSquashMask := ones32, opcodeId := .sll, currentPc := Config.emptyLatchPc }

/-- The machine right after reset (R32 to R35): nothing fetched, `FETCH.next_pc` = RESET_PC, the latches empty. No
program text has been named yet; the whole address space is held (log entries 5 and 7). -/
def State.reset : State where
  pc := none
  fetchNextPc := Config.resetPc
  deex := emptyDeex
  exmem := bubble
  x := Vector.replicate 32 Config.gprReset
  c := Vector.replicate 32 Config.crReset
  mem := []
  held := [{ base := 0, size := 2 ^ 64 }]
  text := none
  status := .running

end Sys2Proof.Machine
end

