-- ==== Sys2Proof/Machine/Tables.lean ====
section
/-! DEFINITION. The four selection tables (40_dispatch_and_tables.md R96 to R99), each as a function of its index.
They are constants (R28, R36). -/

namespace Sys2Proof.Machine

/-- The squash mask's state NORMAL (R22). -/
def maskNormal : IWord := ones32

/-- The squash mask's state SQUASHED (R22). -/
def maskSquashed : IWord := 0#32

/-- `SEL_ADDSUB` (R96): index 0 no negation, index 1 two's-complement negation. -/
def selAddSub (s : Bool) : Value := if s then ones64 else 0#64

/-- `SEL_BITWISE` (R97): the AND-mask and the XOR-mask of the selectors AND, OR, XOR and always-zero. -/
def selBitwise (s : BitVec 2) : Value × Value :=
  match s with
  | 0#2 => (ones64, 0#64)
  | 1#2 => (ones64, ones64)
  | 2#2 => (0#64, ones64)
  | _ => (0#64, 0#64)

/-- `SEL_BRANCH` (R98): index 0 NORMAL, index 1 SQUASHED. -/
def selBranch (s : Bool) : IWord := if s then maskSquashed else maskNormal

/-- `SEL_LOADSEED` (R99): index 0 sign-extend (all ones), index 1 zero-extend (all zeros). -/
def selLoadSeed (s : Bool) : Value := if s then 0#64 else ones64

end Sys2Proof.Machine
end

