-- ==== Sys2Proof/Machine/Flags.lean ====
section
/-! DEFINITION. CORE has no status flags (10_state.md R26). What a flag computation would be elsewhere stands here:
the raw sum with the overflow predicate (41_arith_logic.md R110, R111) and the branch conditions
(42_branch_jump.md sections 2 to 4), which compare register values directly. -/

namespace Sys2Proof.Machine

/-- `Negate(b, m)` (R96): `b` for the all-zero mask, `-b` for the all-one mask. -/
def negate (b m : Value) : Value := (b ^^^ m) - m

/-- The "raw sum" (R110): `a + b`, or `a - b` for selector 1, modulo 2^64. -/
def rawSum (a b : Value) (s : Bool) : Value := a + negate b (selAddSub s)

/-- `Overflow(raw)` (R111): "the 33rd bit of the raw sum disagrees with its sign bit"; the reading of
90_conflicts.md C1. -/
def overflow (raw : Value) : Bool := raw.getLsbD 32 != raw.getLsbD 31

/-- BEQ, BNE: equality of all 64 bits (42_branch_jump.md section 2). -/
def condEq (a b : Value) : Bool := a == b

/-- BLTZ: `A <s 0` (42_branch_jump.md section 3). -/
def condLtz (a : Value) : Bool := a.slt 0#64

/-- BGEZ: `A >=s 0`. -/
def condGez (a : Value) : Bool := !(a.slt 0#64)

/-- BGTZ: `A >s 0` (42_branch_jump.md section 4). -/
def condGtz (a : Value) : Bool := (0#64).slt a

/-- BLEZ: `A <=s 0`. -/
def condLez (a : Value) : Bool := !((0#64).slt a)

end Sys2Proof.Machine
end

