-- ==== Sys2Proof/Machine/Operands.lean ====
section
/-! DEFINITION. How operands are formed: extensions (00_scope.md 6.1, 30_encoding.md R66), destination indices
(R67, 10_state.md R19), branch targets and effective addresses, the lane mask and write word of a store and the
combination of loaded data with its seed (20_memory.md R46, R47). -/

namespace Sys2Proof.Machine

/-! ## Extensions -/

/-- `sext_16(imm16)`. -/
def sext16 (imm : Imm) : Value := imm.signExtend 64

/-- `zext_16(imm16)`. -/
def zext16 (imm : Imm) : Value := imm.setWidth 64

/-- The low 32 bits of a register value. -/
def low32 (v : Value) : IWord := v.setWidth 32

/-- `sext_32(v)`: "truncate to 32 bits, sign-extend to 64". -/
def sext32 (v : Value) : Value := (low32 v).signExtend 64

/-! ## ALU operations -/

/-- `Bitwise(a, b, s)` (R97, R121). -/
def bitwise (a b : Value) (s : BitVec 2) : Value :=
  ((a &&& b) &&& (selBitwise s).1) ||| ((a ^^^ b) &&& (selBitwise s).2)

/-- `sext_32(imm16 << 16)` (R129). -/
def luiValue (imm : Imm) : Value := sext32 (zext16 imm <<< 16)

/-- `sext_32((B[31:0] << sa)[31:0])` (R127). -/
def shiftLeft (b : Value) (sa : Nat) : Value := (low32 b <<< sa).signExtend 64

/-- `sext_32(B[31:0] >> sa)`, a logical shift of the low 32 bits (R130). -/
def shiftRight (b : Value) (sa : Nat) : Value := (low32 b >>> sa).signExtend 64

/-! ## Destination indices (R19, R67) -/

/-- The extended index of a general-purpose register. -/
def gprDest (r : Reg) : Dest := r.setWidth 6

/-- The extended index of a control register: `32 + rd` (R220). -/
def crDest (r : Reg) : Dest := 32#6 + r.setWidth 6

/-- The link register of the branch-and-link forms, 31 (R67). -/
def linkReg : Reg := 31#5

/-! ## Addresses -/

/-- `Target(pc, imm16)` (R150). -/
def branchTarget (pc : Addr) (imm : Imm) : Addr := pc + 4#64 + sext16 imm * 4#64

/-- The link value (R172). -/
def linkValue (pc : Addr) : Value := pc + Config.linkOffset

/-- The effective address (R191). -/
def effectiveAddress (a : Value) (imm : Imm) : Addr := a + sext16 imm

/-- The number of bytes of an access (R50). -/
def AccessSize.bytes : AccessSize → Nat
  | .byte => 1
  | .half => 2
  | .word => 4

/-- The size of a size code; code 2, which would be 3 bytes, is none (R71, R74). -/
def sizeOfCode (code : BitVec 2) : Option AccessSize :=
  match code with
  | 0#2 => some .byte
  | 1#2 => some .half
  | 3#2 => some .word
  | _ => none

/-- `ea mod n == 0` (R48). -/
def aligned (size : AccessSize) (ea : Addr) : Bool := ea.toNat % size.bytes == 0

/-- The addresses of the bytes of an access, computed modulo 2^64 (R44). -/
def accessAddrs (a : Addr) : AccessSize → List Addr
  | .byte => [a]
  | .half => [a, a + 1]
  | .word => [a, a + 1, a + 2, a + 3]

/-! ## Store lanes (R46) -/

/-- `TOP(n)`. -/
def laneTop : AccessSize → IWord
  | .byte => 0xFF000000#32
  | .half => 0xFFFF0000#32
  | .word => 0xFFFFFFFF#32

/-- `8*k` with `k = ea[1:0]`. -/
def laneShift (ea : Addr) : Nat := 8 * (ea.extractLsb' 0 2).toNat

/-- `LaneMask(n, ea)`; total, misaligned addresses included. -/
def laneMask (size : AccessSize) (ea : Addr) : IWord := laneTop size >>> laneShift ea

/-- `WriteWord(n, ea, B)`; total, misaligned addresses included. -/
def writeWord (size : AccessSize) (ea : Addr) (b : Value) : IWord :=
  ((low32 b <<< (8 * (4 - size.bytes))) >>> laneShift ea) &&& laneMask size ea

/-- Lane `j` of a bus word, bits `[31-8j : 24-8j]` (R43). -/
def laneByte (w : IWord) (j : Nat) : Byte := w.extractLsb' (24 - 8 * j) 8

/-- `ea & ~3`: the first byte of the bus word that contains `ea` (R58). -/
def busWordBase (ea : Addr) : Addr := ea &&& ~~~3#64

/-- The addresses and bytes that a WRITE request's mask selects, lane 0 first (R46). -/
def selectedLanes (r : BusRequest) : List (Addr × Byte) :=
  ([0, 1, 2, 3].filter fun j => laneByte r.laneMask j == 0xFF#8).map fun j =>
    (busWordBase r.address + BitVec.ofNat 64 j, laneByte r.writeWord j)

/-! ## Load combination (R47) -/

/-- `w = 8n`. -/
def AccessSize.bits (size : AccessSize) : Nat := 8 * size.bytes

/-- `LowMask(w)`: `w` low ones. -/
def lowMask (w : Nat) : Value := (1#64 <<< w) - 1#64

/-- `Rep(bit)`: all ones or all zeros. -/
def repBit (b : Bool) : Value := if b then ones64 else 0#64

/-- `loaded`: the data, already zero-extended, with the seed's high bits where the data's top bit is 1. -/
def loaded (size : AccessSize) (d seed : Value) : Value :=
  d ||| (seed &&& ~~~(lowMask size.bits) &&& repBit (d.getLsbD (size.bits - 1)))

end Sys2Proof.Machine
end

