-- ==== Sys2Proof/Machine/Ops.lean ====
section
/-! DEFINITION. The named operations on the state: the register file and its hard-wired register 0, MemRead and
MemWrite (20_memory.md R44), the consumers' commit of the Execute/Memory latch (10_state.md R19, 20_memory.md R41,
R46, R47), the end of an instruction (70_reset_and_hazards.md R270 steps 9 to 12), taking a fault
(60_exceptions.md R231 to R233), and what the host and the driver do from outside (R270, R233). -/

namespace Sys2Proof.Machine

/-! ## Registers -/

/-- `x[i]`; `x[0]` reads 0 (R20). -/
def State.readX (s : State) (r : Reg) : Value := if r = 0#5 then 0#64 else s.x[r.toNat]

/-- `x[i] <- v`; a write to index 0 is discarded (R19, R20). -/
def State.writeX (s : State) (r : Reg) (v : Value) : State :=
  if r = 0#5 then s else { s with x := s.x.set r.toNat v }

/-- `c[j]`, a plain 64-bit cell (R17). -/
def State.readC (s : State) (r : Reg) : Value := s.c[r.toNat]

/-- `c[j] <- v`. -/
def State.writeC (s : State) (r : Reg) (v : Value) : State := { s with c := s.c.set r.toNat v }

/-- "Write to register d" (R19): 0 discarded, 1 to 31 general-purpose, 32 to 63 control registers. -/
def State.writeDest (s : State) (d : Dest) (v : Value) : State :=
  if d.getLsbD 5 then s.writeC (d.setWidth 5) v else s.writeX (d.setWidth 5) v

/-! ## Memory -/

/-- The byte at an address. -/
def State.byteAt (s : State) (a : Addr) : Byte := Memory.read s.mem a.toNat

/-- Writes the byte at an address. -/
def State.setByte (s : State) (a : Addr) (b : Byte) : State := { s with mem := Memory.write s.mem a.toNat b }

/-- TEXT_END (R274). -/
def TextRange.limit (t : TextRange) : Addr := t.base + BitVec.ofNat 64 t.size

/-- The address lies in [TEXT_BASE, TEXT_END). -/
def TextRange.contains (t : TextRange) (a : Addr) : Bool := decide ((a - t.base).toNat < t.size)

/-- The address lies in the launch's program text. -/
def State.inText (s : State) (a : Addr) : Bool :=
  match s.text with
  | some t => t.contains a
  | none => false

/-- The address lies in the region. -/
def Region.contains (r : Region) (a : Addr) : Bool := decide (r.base ≤ a.toNat) && decide (a.toNat < r.base + r.size)

/-- The launch memory holds a byte at the address: in the program text or in a held region. -/
def State.holds (s : State) (a : Addr) : Bool := s.inText a || s.held.any fun r => r.contains a

/-- `MemRead(a, n)` (R44): big-endian, zero-extended to a register value. -/
def State.memRead (s : State) (a : Addr) : AccessSize → Value
  | .byte => (s.byteAt a).setWidth 64
  | .half => (bytesHalf (s.byteAt a) (s.byteAt (a + 1))).setWidth 64
  | .word => (bytesWord (s.byteAt a) (s.byteAt (a + 1)) (s.byteAt (a + 2)) (s.byteAt (a + 3))).setWidth 64

/-- `MemWrite(a, n, v)` (R44): the low `8n` bits of `v`, most significant byte at `a`. -/
def State.memWrite (s : State) (a : Addr) (v : Value) : AccessSize → State
  | .byte => s.setByte a (v.extractLsb' 0 8)
  | .half => (s.setByte a (v.extractLsb' 8 8)).setByte (a + 1) (v.extractLsb' 0 8)
  | .word => (((s.setByte a (v.extractLsb' 24 8)).setByte (a + 1) (v.extractLsb' 16 8)).setByte (a + 2)
      (v.extractLsb' 8 8)).setByte (a + 3) (v.extractLsb' 0 8)

/-- The first address of the list that the launch memory does not hold. -/
def State.firstAbsent (s : State) (as : List Addr) : Option Addr := as.find? fun a => !s.holds a

/-- The first address of the list that lies in the program text. -/
def State.firstInText (s : State) (as : List Addr) : Option Addr := as.find? fun a => s.inText a

/-- Writes bytes, the first of the list first. -/
def State.setBytes (s : State) : List (Addr × Byte) → State
  | [] => s
  | (a, b) :: rest => (s.setByte a b).setBytes rest

/-! ## Commit (R19, R41) -/

/-- The consumer's read (R47): performed even when the destination is 0; refused at an address that the launch
memory does not hold (93_implementation_defined.md U16). -/
def State.commitRead (s : State) (r : BusRequest) (d : Dest) (seed : Value) : Except Refusal State :=
  match s.firstAbsent (accessAddrs r.address r.size) with
  | some a => .error (.addressAbsent a)
  | none => .ok (s.writeDest d (loaded r.size (s.memRead r.address r.size) seed))

/-- The consumer's write (R46): "touch no other byte"; refused into the program text (R56) and at an address that the
launch memory does not hold (93_implementation_defined.md U16). -/
def State.commitWrite (s : State) (r : BusRequest) : Except Refusal State :=
  match s.firstInText ((selectedLanes r).map (·.1)) with
  | some a => .error (.storeIntoText a)
  | none =>
    match s.firstAbsent ((selectedLanes r).map (·.1)) with
    | some a => .error (.addressAbsent a)
    | none => .ok (s.setBytes (selectedLanes r))

/-- REF-ENV's step 9 (R270). -/
def State.commit (s : State) (w : LatchWrites) : Except Refusal State :=
  match w.req with
  | none => .ok (s.writeDest w.dest w.result)
  | some r =>
    match r.kind with
    | .read => s.commitRead r w.dest w.result
    | .write => s.commitWrite r

/-! ## The end of an instruction -/

/-- REF-ENV's steps 10 to 12 and the latches (R270, R94, R16): EXMEM takes the handler's values, `pc` takes `npc`, and
`FETCH.next_pc` the target if the handler wrote one, else the sequential address (R27); the mask keeps the value the
handler left. -/
def State.retire (s : State) (w : LatchWrites) : State :=
  { s with
    exmem := { result := w.result, dest := w.dest, req := w.req }
    pc := some s.fetchNextPc
    fetchNextPc := w.nextPc.getD (s.fetchNextPc + 4)
    deex := { s.deex with iwSquashMask := w.squashMask.getD s.deex.iwSquashMask } }

/-- TAKING A FAULT (R231 to R233, R270 step 8): no latch, register or byte is written; the fault, with the pc and the
word of the faulting instruction, is recorded in the status, and REF-ENV stops there. -/
def State.takeFault (s : State) (f : FaultInfo) : State := { s with status := .faulted f }

/-- What happens to a handler's outcome (R270 steps 8 to 12). -/
def State.complete (s : State) : HandlerOutcome → Host.Outcome State Fault Refusal
  | .fault f => .next (s.takeFault f)
  | .ok w =>
    match s.commit w with
    | .ok t => .next (t.retire w)
    | .error r => .refused r

/-! ## Handler outcomes that several groups share -/

/-- The fault information of the latch's instruction (R231). -/
def DeexLatch.faultInfo (e : DeexLatch) (kind : FaultKind) (access : Option (Addr × AccessKind)) : FaultInfo :=
  { kind := kind, pc := e.currentPc, iw := e.iw, access := access }

/-- An `Ok` outcome that writes a result and nothing else: no request, no control transfer (R94). -/
def resultOnly (d : Dest) (v : Value) : HandlerOutcome :=
  .ok { result := v, dest := d, req := none, nextPc := none, squashMask := none }

/-! ## From outside: the driver and the host -/

/-- What the source's driver owes after a fault (R233 (b), (c), (d)): instructions already fetched are flushed, fetch
is redirected to FAULT_VECTOR, the run goes on. REF-ENV does not do it (R233, decision D19), so `step` does not call
it: it is an action of the driver around CORE (log entry 6); what the flush leaves in the latches, and that it drops a
pending branch target (R234), is log entry 12. -/
def State.driverRedirect (s : State) : State :=
  match s.status with
  | .faulted f =>
    { s with
      pc := none
      fetchNextPc := Config.faultVector f.kind
      deex := emptyDeex
      exmem := bubble
      status := .running }
  | _ => s

/-- Writes a list of words as bytes in address order, big-endian (R43, R262 (b)). -/
def State.setWords (s : State) (a : Addr) : List IWord → State
  | [] => s
  | w :: ws => (s.memWrite a (w.setWidth 64) .word).setWords (a + 4) ws

/-- The host's launch (R270, R275): the program's words are placed at `base`, which becomes the program text; the
regions given are the data addresses that exist; `pc` = ENTRY, `npc` = ENTRY + 4, the mask NORMAL. -/
def State.launch (s : State) (entry base : Addr) (program : List IWord) (held : List Region) : State :=
  { s.setWords base program with
    pc := some entry
    fetchNextPc := entry + 4
    deex := emptyDeex
    exmem := bubble
    held := held
    text := some { base := base, size := 4 * program.length }
    status := .running }

end Sys2Proof.Machine
end

