-- ==== Sys2Proof/Machine/Arith.lean ====
section
/-! DEFINITION. The add/subtract shape and its ten instructions (41_arith_logic.md sections 1 to 3): ADD, SUB, ADDU,
SUBU, ADDI, ADDIU, and SUBI, SUBIU, which the spec gives a meaning and no encoding (30_encoding.md R76). -/

namespace Sys2Proof.Machine

/-- `AddSub(a, b, s, trap)` (R110) with its result aimed at `d`: the fault of R111 is detected before any latch is
written. -/
def addSub (e : DeexLatch) (a b : Value) (s trap : Bool) (d : Dest) : HandlerOutcome :=
  if trap && overflow (rawSum a b s) then .fault (e.faultInfo .integerOverflow none)
  else resultOnly d (sext32 (rawSum a b s))

/-- `ADD rd, rs, rt` (R112). -/
def execAdd (rd rs rt : Reg) (s : State) : Host.Outcome State Fault Refusal :=
  s.complete (addSub s.deex (s.readX rs) (s.readX rt) false true (gprDest rd))

/-- `SUB rd, rs, rt` (R113). -/
def execSub (rd rs rt : Reg) (s : State) : Host.Outcome State Fault Refusal :=
  s.complete (addSub s.deex (s.readX rs) (s.readX rt) true true (gprDest rd))

/-- `ADDU rd, rs, rt` (R118). -/
def execAddu (rd rs rt : Reg) (s : State) : Host.Outcome State Fault Refusal :=
  s.complete (addSub s.deex (s.readX rs) (s.readX rt) false false (gprDest rd))

/-- `SUBU rd, rs, rt` (R119). -/
def execSubu (rd rs rt : Reg) (s : State) : Host.Outcome State Fault Refusal :=
  s.complete (addSub s.deex (s.readX rs) (s.readX rt) true false (gprDest rd))

/-- `ADDI rt, rs, imm` (R114). -/
def execAddi (rt rs : Reg) (imm : Imm) (s : State) : Host.Outcome State Fault Refusal :=
  s.complete (addSub s.deex (s.readX rs) (sext16 imm) false true (gprDest rt))

/-- `ADDIU rt, rs, imm` (R115). -/
def execAddiu (rt rs : Reg) (imm : Imm) (s : State) : Host.Outcome State Fault Refusal :=
  s.complete (addSub s.deex (s.readX rs) (sext16 imm) false false (gprDest rt))

/-- `SUBI rt, rs, imm` (R116); no word decodes to it. -/
def execSubi (rt rs : Reg) (imm : Imm) (s : State) : Host.Outcome State Fault Refusal :=
  s.complete (addSub s.deex (s.readX rs) (sext16 imm) true true (gprDest rt))

/-- `SUBIU rt, rs, imm` (R117); no word decodes to it. -/
def execSubiu (rt rs : Reg) (imm : Imm) (s : State) : Host.Outcome State Fault Refusal :=
  s.complete (addSub s.deex (s.readX rs) (sext16 imm) true false (gprDest rt))

end Sys2Proof.Machine
end

