-- ==== Sys2Proof/Machine/Branch.lean ====
section
/-! DEFINITION. The branch shape and its sixteen instructions (42_branch_jump.md sections 1 to 5). -/

namespace Sys2Proof.Machine

/-- The branch shape (R151, R152): `next_pc` is written only when taken; the squash mask is SQUASHED exactly when
likely and not taken; a linking form aims the link value at register 31, taken or not (R172). -/
def branch (e : DeexLatch) (taken likely link : Bool) (imm : Imm) : HandlerOutcome :=
  .ok {
    result := if link then linkValue e.currentPc else 0#64
    dest := if link then gprDest linkReg else 0#6
    req := none
    nextPc := if taken then some (branchTarget e.currentPc imm) else none
    squashMask := some (selBranch (likely && !taken)) }

/-- `BEQ rs, rt, label` (R153). -/
def execBeq (rs rt : Reg) (imm : Imm) (s : State) : Host.Outcome State Fault Refusal :=
  s.complete (branch s.deex (condEq (s.readX rs) (s.readX rt)) false false imm)

/-- `BNE rs, rt, label` (R154). -/
def execBne (rs rt : Reg) (imm : Imm) (s : State) : Host.Outcome State Fault Refusal :=
  s.complete (branch s.deex (!condEq (s.readX rs) (s.readX rt)) false false imm)

/-- `BEQL rs, rt, label` (R155). -/
def execBeql (rs rt : Reg) (imm : Imm) (s : State) : Host.Outcome State Fault Refusal :=
  s.complete (branch s.deex (condEq (s.readX rs) (s.readX rt)) true false imm)

/-- `BNEL rs, rt, label` (R156). -/
def execBnel (rs rt : Reg) (imm : Imm) (s : State) : Host.Outcome State Fault Refusal :=
  s.complete (branch s.deex (!condEq (s.readX rs) (s.readX rt)) true false imm)

/-- `BGEZ rs, label` (R157). -/
def execBgez (rs : Reg) (imm : Imm) (s : State) : Host.Outcome State Fault Refusal :=
  s.complete (branch s.deex (condGez (s.readX rs)) false false imm)

/-- `BGEZL rs, label` (R158). -/
def execBgezl (rs : Reg) (imm : Imm) (s : State) : Host.Outcome State Fault Refusal :=
  s.complete (branch s.deex (condGez (s.readX rs)) true false imm)

/-- `BLTZ rs, label` (R159). -/
def execBltz (rs : Reg) (imm : Imm) (s : State) : Host.Outcome State Fault Refusal :=
  s.complete (branch s.deex (condLtz (s.readX rs)) false false imm)

/-- `BLTZL rs, label` (R160). -/
def execBltzl (rs : Reg) (imm : Imm) (s : State) : Host.Outcome State Fault Refusal :=
  s.complete (branch s.deex (condLtz (s.readX rs)) true false imm)

/-- `BGTZ rs, label` (R161). -/
def execBgtz (rs : Reg) (imm : Imm) (s : State) : Host.Outcome State Fault Refusal :=
  s.complete (branch s.deex (condGtz (s.readX rs)) false false imm)

/-- `BGTZL rs, label` (R162). -/
def execBgtzl (rs : Reg) (imm : Imm) (s : State) : Host.Outcome State Fault Refusal :=
  s.complete (branch s.deex (condGtz (s.readX rs)) true false imm)

/-- `BLEZ rs, label` (R163). -/
def execBlez (rs : Reg) (imm : Imm) (s : State) : Host.Outcome State Fault Refusal :=
  s.complete (branch s.deex (condLez (s.readX rs)) false false imm)

/-- `BLEZL rs, label` (R164). -/
def execBlezl (rs : Reg) (imm : Imm) (s : State) : Host.Outcome State Fault Refusal :=
  s.complete (branch s.deex (condLez (s.readX rs)) true false imm)

/-- `BGEZAL rs, label` (R165). -/
def execBgezal (rs : Reg) (imm : Imm) (s : State) : Host.Outcome State Fault Refusal :=
  s.complete (branch s.deex (condGez (s.readX rs)) false true imm)

/-- `BGEZALL rs, label` (R166). -/
def execBgezall (rs : Reg) (imm : Imm) (s : State) : Host.Outcome State Fault Refusal :=
  s.complete (branch s.deex (condGez (s.readX rs)) true true imm)

/-- `BLTZAL rs, label` (R167). -/
def execBltzal (rs : Reg) (imm : Imm) (s : State) : Host.Outcome State Fault Refusal :=
  s.complete (branch s.deex (condLtz (s.readX rs)) false true imm)

/-- `BLTZALL rs, label` (R168). -/
def execBltzall (rs : Reg) (imm : Imm) (s : State) : Host.Outcome State Fault Refusal :=
  s.complete (branch s.deex (condLtz (s.readX rs)) true true imm)

end Sys2Proof.Machine
end

