-- ==== Sys2Proof/Machine/Control.lean ====
section
/-! DEFINITION. The move to a control register (44_control_move.md). No mode is checked and no field is read-only
(R222). -/

namespace Sys2Proof.Machine

/-- `MTC0 rt, rd` (R220): destination index `32 + rd`, so control register 0 is not discarded. -/
def execMtc0 (rt rd : Reg) (s : State) : Host.Outcome State Fault Refusal :=
  s.complete (resultOnly (crDest rd) (sext32 (s.readX rt)))

end Sys2Proof.Machine
end

