-- ==== Sys2Proof/Machine/Jump.lean ====
section
/-! DEFINITION. The register jumps (42_branch_jump.md section 6). -/

namespace Sys2Proof.Machine

/-- The register-jump shape (R169): fetch is redirected to `A` as it is (R174), and `pc + 4` is formed for both
forms. -/
def jump (e : DeexLatch) (a : Value) (d : Dest) : HandlerOutcome :=
  .ok { result := linkValue e.currentPc, dest := d, req := none, nextPc := some a, squashMask := none }

/-- `JR rs` (R171): destination index 0. -/
def execJr (rs : Reg) (s : State) : Host.Outcome State Fault Refusal :=
  s.complete (jump s.deex (s.readX rs) 0#6)

/-- `JALR rd, rs` (R170): `A` is read before the link is written. -/
def execJalr (rd rs : Reg) (s : State) : Host.Outcome State Fault Refusal :=
  s.complete (jump s.deex (s.readX rs) (gprDest rd))

end Sys2Proof.Machine
end

