-- ==== Sys2Proof/Machine/LoadStore.lean ====
section
/-! DEFINITION. The load and store shapes and their nine instructions (43_load_store.md). -/

namespace Sys2Proof.Machine

/-- The load shape (R190, R202): the alignment fault first, else a READ request with the seed as the result (R45). -/
def load (e : DeexLatch) (a : Value) (imm : Imm) (size : AccessSize) (zeroExtend : Bool) (d : Dest) : HandlerOutcome :=
  if aligned size (effectiveAddress a imm) then
    .ok {
      result := selLoadSeed zeroExtend
      dest := d
      req := some {
        address := effectiveAddress a imm
        kind := .read
        size := size
        writeWord := 0#32
        laneMask := 0#32 }
      nextPc := none
      squashMask := none }
  else .fault (e.faultInfo .unalignedAddress (some (effectiveAddress a imm, .read)))

/-- The store shape (R198, R202): the alignment fault first, else a WRITE request with the masked word and the lane
mask, and no register result. -/
def store (e : DeexLatch) (a b : Value) (imm : Imm) (size : AccessSize) : HandlerOutcome :=
  if aligned size (effectiveAddress a imm) then
    .ok {
      result := 0#64
      dest := 0#6
      req := some {
        address := effectiveAddress a imm
        kind := .write
        size := size
        writeWord := writeWord size (effectiveAddress a imm) b
        laneMask := laneMask size (effectiveAddress a imm) }
      nextPc := none
      squashMask := none }
  else .fault (e.faultInfo .unalignedAddress (some (effectiveAddress a imm, .write)))

/-- `LB rt, imm(rs)` (R192). -/
def execLb (rt rs : Reg) (imm : Imm) (s : State) : Host.Outcome State Fault Refusal :=
  s.complete (load s.deex (s.readX rs) imm .byte false (gprDest rt))

/-- `LBU rt, imm(rs)` (R193). -/
def execLbu (rt rs : Reg) (imm : Imm) (s : State) : Host.Outcome State Fault Refusal :=
  s.complete (load s.deex (s.readX rs) imm .byte true (gprDest rt))

/-- `LH rt, imm(rs)` (R194). -/
def execLh (rt rs : Reg) (imm : Imm) (s : State) : Host.Outcome State Fault Refusal :=
  s.complete (load s.deex (s.readX rs) imm .half false (gprDest rt))

/-- `LHU rt, imm(rs)` (R195). -/
def execLhu (rt rs : Reg) (imm : Imm) (s : State) : Host.Outcome State Fault Refusal :=
  s.complete (load s.deex (s.readX rs) imm .half true (gprDest rt))

/-- `LW rt, imm(rs)` (R196). -/
def execLw (rt rs : Reg) (imm : Imm) (s : State) : Host.Outcome State Fault Refusal :=
  s.complete (load s.deex (s.readX rs) imm .word false (gprDest rt))

/-- `LWU rt, imm(rs)` (R197). -/
def execLwu (rt rs : Reg) (imm : Imm) (s : State) : Host.Outcome State Fault Refusal :=
  s.complete (load s.deex (s.readX rs) imm .word true (gprDest rt))

/-- `SB rt, imm(rs)` (R199). -/
def execSb (rt rs : Reg) (imm : Imm) (s : State) : Host.Outcome State Fault Refusal :=
  s.complete (store s.deex (s.readX rs) (s.readX rt) imm .byte)

/-- `SH rt, imm(rs)` (R200). -/
def execSh (rt rs : Reg) (imm : Imm) (s : State) : Host.Outcome State Fault Refusal :=
  s.complete (store s.deex (s.readX rs) (s.readX rt) imm .half)

/-- `SW rt, imm(rs)` (R201). -/
def execSw (rt rs : Reg) (imm : Imm) (s : State) : Host.Outcome State Fault Refusal :=
  s.complete (store s.deex (s.readX rs) (s.readX rt) imm .word)

end Sys2Proof.Machine
end

