-- ==== Sys2Proof/Machine/Logic.lean ====
section
/-! DEFINITION. The bitwise shape and its six instructions, and load-upper-immediate (41_arith_logic.md sections 4
and 5). All 64 bits take part; nothing is truncated (R121). -/

namespace Sys2Proof.Machine

/-- `AND rd, rs, rt` (R122): selector 0 of R121. -/
def execAnd (rd rs rt : Reg) (s : State) : Host.Outcome State Fault Refusal :=
  s.complete (resultOnly (gprDest rd) (bitwise (s.readX rs) (s.readX rt) 0#2))

/-- `OR rd, rs, rt` (R123): selector 1 of R121. -/
def execOr (rd rs rt : Reg) (s : State) : Host.Outcome State Fault Refusal :=
  s.complete (resultOnly (gprDest rd) (bitwise (s.readX rs) (s.readX rt) 1#2))

/-- `XOR rd, rs, rt` (R124): selector 2 of R121. -/
def execXor (rd rs rt : Reg) (s : State) : Host.Outcome State Fault Refusal :=
  s.complete (resultOnly (gprDest rd) (bitwise (s.readX rs) (s.readX rt) 2#2))

/-- `ANDI rt, rs, imm` (R125): selector 0, the immediate zero-extended (R66). -/
def execAndi (rt rs : Reg) (imm : Imm) (s : State) : Host.Outcome State Fault Refusal :=
  s.complete (resultOnly (gprDest rt) (bitwise (s.readX rs) (zext16 imm) 0#2))

/-- `ORI rt, rs, imm` (R126): selector 1, the immediate zero-extended (R66). -/
def execOri (rt rs : Reg) (imm : Imm) (s : State) : Host.Outcome State Fault Refusal :=
  s.complete (resultOnly (gprDest rt) (bitwise (s.readX rs) (zext16 imm) 1#2))

/-- `XORI rt, rs, imm` (R128): selector 2, the immediate zero-extended (R66). -/
def execXori (rt rs : Reg) (imm : Imm) (s : State) : Host.Outcome State Fault Refusal :=
  s.complete (resultOnly (gprDest rt) (bitwise (s.readX rs) (zext16 imm) 2#2))

/-- `LUI rt, imm` (R129). -/
def execLui (rt : Reg) (imm : Imm) (s : State) : Host.Outcome State Fault Refusal :=
  s.complete (resultOnly (gprDest rt) (luiValue imm))

end Sys2Proof.Machine
end

