-- ==== Sys2Proof/Machine/Shift.lean ====
section
/-! DEFINITION. The shifts (41_arith_logic.md section 6). SLL of register 0 by 0, the word 0, is the no-op
(30_encoding.md R75). -/

namespace Sys2Proof.Machine

/-- `SLL rd, rt, sa` (R127). -/
def execSll (rd rt : Reg) (sa : Nat) (s : State) : Host.Outcome State Fault Refusal :=
  s.complete (resultOnly (gprDest rd) (shiftLeft (s.readX rt) sa))

/-- `SRL rd, rt, sa` (R130). -/
def execSrl (rd rt : Reg) (sa : Nat) (s : State) : Host.Outcome State Fault Refusal :=
  s.complete (resultOnly (gprDest rd) (shiftRight (s.readX rt) sa))

end Sys2Proof.Machine
end

