-- ==== Sys2Proof/Machine/Fetch.lean ====
section
/-! DEFINITION. Before the handler runs (70_reset_and_hazards.md R270 steps 1 to 4): the address to fetch from, the
end of a run, the fetch and its refusals, and the load of the Decode/Execute latch (10_state.md R23). -/

namespace Sys2Proof.Machine

/-- The address of the word to be handled in this step: REF-ENV's `pc`, or `FETCH.next_pc` when nothing has been
fetched (R33, R34). -/
def State.fetchAddr (s : State) : Addr := s.pc.getD s.fetchNextPc

/-- With nothing fetched, the fetch stage takes the word at `FETCH.next_pc`, whose successor is sequential (R27, R33);
this is REF-ENV's launch `pc` = ENTRY, `npc` = ENTRY + 4 (R270). -/
def State.prime (s : State) : State :=
  match s.pc with
  | some _ => s
  | none => { s with pc := some s.fetchNextPc, fetchNextPc := s.fetchNextPc + 4 }

/-- The end-of-run condition of R274, of a state with a word fetched. -/
def State.atEnd (s : State) : Bool :=
  match s.text with
  | some t => s.fetchAddr == t.limit && s.fetchNextPc == t.limit + 4 && s.deex.iwSquashMask == maskNormal
  | none => false

/-- Ends the run (R274). -/
def State.endRun (s : State) : State := { s with status := .ended }

/-- The fetched word, or why the fetch is refused (R273, R49). DESIGN CHOICE (log entry 16), safe: the spec names no
reason, and for an address that is both misaligned and outside the program text the model names the misalignment. -/
def State.fetchWord (s : State) : Except Refusal IWord :=
  if s.fetchAddr.extractLsb' 0 2 != 0 then .error (.fetchMisaligned s.fetchAddr)
  else if !s.inText s.fetchAddr then .error (.fetchOutsideText s.fetchAddr)
  else .ok (low32 (s.memRead s.fetchAddr .word))

/-- Loading the Decode/Execute latch with the word fetched (R23): masked, then decoded; the mask back to NORMAL. -/
def State.loadDeex (s : State) (w : IWord) : State :=
  { s with deex := {
      iw := w &&& s.deex.iwSquashMask
      iwSquashMask := maskNormal
      opcodeId := decodeId (w &&& s.deex.iwSquashMask)
      currentPc := s.fetchAddr } }

/-- The state in which the very next step handles the word `w`: the word stands where the step fetches, inside the
program text, with no squash pending and the machine running. -/
def State.withWordAtFetch (s : State) (w : IWord) : State :=
  { s.memWrite s.fetchAddr (w.setWidth 64) .word with
    deex := { s.deex with iwSquashMask := maskNormal }
    text := if s.inText s.fetchAddr then s.text else some { base := s.fetchAddr, size := 4 }
    status := .running }

end Sys2Proof.Machine
end

