-- ==== Sys2Proof/Machine/Invalid.lean ====
section
/-! DEFINITION. The handler of every word that decodes to no instruction in scope (45_invalid.md). -/

namespace Sys2Proof.Machine

/-- INVALID's handler (R225): always `UnimplementedOpcode`, with the word and the pc (R226). -/
def invalid (e : DeexLatch) : HandlerOutcome := .fault (e.faultInfo .unimplementedOpcode none)

/-- INVALID as the machine runs it. -/
def execInvalid (s : State) : Host.Outcome State Fault Refusal := s.complete (invalid s.deex)

end Sys2Proof.Machine
end

