-- ==== Sys2Proof/Machine/Step.lean ====
section
/-! DEFINITION. One step of REF-ENV round CORE (70_reset_and_hazards.md R270, 40_dispatch_and_tables.md R100). -/

namespace Sys2Proof.Machine

/-- Handles the word in the Decode/Execute latch: its instruction, or INVALID (R73, R93). -/
def handleLoaded (s : State) : Host.Outcome State Fault Refusal :=
  match decode s.deex.iw with
  | .ok i => exec i s
  | .error _ => execInvalid s

/-- A step of a running machine with a word fetched. -/
def stepRunning (s : State) : Host.Outcome State Fault Refusal :=
  if s.atEnd then .next s.endRun
  else
    match s.fetchWord with
    | .ok w => handleLoaded (s.loadDeex w)
    | .error r => .refused r

/-- One step, when the status is Running; a machine that has stopped takes none (R270, R233, R274). -/
def step (s : State) : Host.Outcome State Fault Refusal :=
  match s.status with
  | .running => stepRunning s.prime
  | .ended => .fault .afterEnd
  | .faulted f => .fault (.afterFault f)

/-- `s` with a table row's bits `w`, of which the low `nbits` count, as the word its next step handles. -/
def State.withFetchWord (s : State) (nbits w : Nat) : State :=
  s.withWordAtFetch (BitVec.ofNat 32 (w % 2 ^ nbits))

end Sys2Proof.Machine
end

