-- ==== Sys2Proof/Machine/Handlers.lean ====
section
/-! DEFINITION. The dispatch table and its 18 handlers as the hardware has them (40_dispatch_and_tables.md R90 to
R94): one handler per opcode identifier, a function of the latch and the two operand values, that tells its variants
apart by the selector bits of the instruction word (30_encoding.md R71). This is how the reserved selector values of
R74 are reached: the bitwise selector 3 and the size code 2. The meanings `exec` calls select on the mnemonic instead,
which R71 allows; that the two agree on every decodable word is an obligation. -/

namespace Sys2Proof.Machine

/-- ADD_SUB: subtract is `iw[1]`. -/
def handleAddSub (e : DeexLatch) (a b : Value) : HandlerOutcome :=
  addSub e a b (e.iw.getLsbD 1) true (gprDest (fieldRd e.iw))

/-- ADDI_SUBI: the subtract selector is the constant 0 (R76). -/
def handleAddiSubi (e : DeexLatch) (a : Value) : HandlerOutcome :=
  addSub e a (sext16 (fieldImm e.iw)) false true (gprDest (fieldRt e.iw))

/-- ADDIU_SUBIU: the subtract selector is the constant 0 (R76). -/
def handleAddiuSubiu (e : DeexLatch) (a : Value) : HandlerOutcome :=
  addSub e a (sext16 (fieldImm e.iw)) false false (gprDest (fieldRt e.iw))

/-- ADDU_SUBU: subtract is `iw[1]`. -/
def handleAdduSubu (e : DeexLatch) (a b : Value) : HandlerOutcome :=
  addSub e a b (e.iw.getLsbD 1) false (gprDest (fieldRd e.iw))

/-- AND_OR_XOR: the operator is `iw[1:0]`; 3 is the zero-result variant (R121). -/
def handleAndOrXor (e : DeexLatch) (a b : Value) : HandlerOutcome :=
  resultOnly (gprDest (fieldRd e.iw)) (bitwise a b (e.iw.extractLsb' 0 2))

/-- ANDI_ORI_XORI: the operator is `iw[27:26]`; 3 is the zero-result variant (R121). -/
def handleAndiOriXori (e : DeexLatch) (a : Value) : HandlerOutcome :=
  resultOnly (gprDest (fieldRt e.iw)) (bitwise a (zext16 (fieldImm e.iw)) (e.iw.extractLsb' 26 2))

/-- LUI. -/
def handleLui (e : DeexLatch) : HandlerOutcome :=
  resultOnly (gprDest (fieldRt e.iw)) (luiValue (fieldImm e.iw))

/-- SLL. -/
def handleSll (e : DeexLatch) (b : Value) : HandlerOutcome :=
  resultOnly (gprDest (fieldRd e.iw)) (shiftLeft b (fieldSa e.iw).toNat)

/-- SRL. -/
def handleSrl (e : DeexLatch) (b : Value) : HandlerOutcome :=
  resultOnly (gprDest (fieldRd e.iw)) (shiftRight b (fieldSa e.iw).toNat)

/-- BEQ_BNE: the sense is `iw[26]`, likely is `iw[30]`. -/
def handleBeqBne (e : DeexLatch) (a b : Value) : HandlerOutcome :=
  branch e (condEq a b != e.iw.getLsbD 26) (e.iw.getLsbD 30) false (fieldImm e.iw)

/-- BLTZ_BGEZ: the sense is `iw[16]`, likely is `iw[17]`. -/
def handleBltzBgez (e : DeexLatch) (a : Value) : HandlerOutcome :=
  branch e (condLtz a != e.iw.getLsbD 16) (e.iw.getLsbD 17) false (fieldImm e.iw)

/-- BLEZ_BGTZ: the sense is `iw[26]`, likely is `iw[30]`. -/
def handleBlezBgtz (e : DeexLatch) (a : Value) : HandlerOutcome :=
  branch e (condLez a != e.iw.getLsbD 26) (e.iw.getLsbD 30) false (fieldImm e.iw)

/-- BLTZAL_BGEZAL: as BLTZ_BGEZ, with the link. -/
def handleBltzalBgezal (e : DeexLatch) (a : Value) : HandlerOutcome :=
  branch e (condLtz a != e.iw.getLsbD 16) (e.iw.getLsbD 17) true (fieldImm e.iw)

/-- JALR_JR: the destination index is masked by the branch-mask table keyed on `iw[0]` (R169). -/
def handleJalrJr (e : DeexLatch) (a : Value) : HandlerOutcome :=
  jump e a (gprDest (fieldRd e.iw &&& (selBranch (!e.iw.getLsbD 0)).setWidth 5))

/-- LOAD: the size code is `iw[27:26]`, tested first; zero-extend is `iw[28]` (R190, R202). -/
def handleLoad (e : DeexLatch) (a : Value) : HandlerOutcome :=
  match sizeOfCode (e.iw.extractLsb' 26 2) with
  | some size => load e a (fieldImm e.iw) size (e.iw.getLsbD 28) (gprDest (fieldRt e.iw))
  | none => .fault (e.faultInfo .reservedInstruction none)

/-- STORE: the size code is `iw[27:26]`, tested first (R198, R202). -/
def handleStore (e : DeexLatch) (a b : Value) : HandlerOutcome :=
  match sizeOfCode (e.iw.extractLsb' 26 2) with
  | some size => store e a b (fieldImm e.iw) size
  | none => .fault (e.faultInfo .reservedInstruction none)

/-- MTCX. -/
def handleMtcx (e : DeexLatch) (b : Value) : HandlerOutcome :=
  resultOnly (crDest (fieldRd e.iw)) (sext32 b)

/-- `dispatch[opcode_id]` (R92, R93): exactly one entry per identifier. -/
def dispatch (id : OpcodeId) (e : DeexLatch) (a b : Value) : HandlerOutcome :=
  match id with
  | .invalid => invalid e
  | .addSub => handleAddSub e a b
  | .addiSubi => handleAddiSubi e a
  | .addiuSubiu => handleAddiuSubiu e a
  | .adduSubu => handleAdduSubu e a b
  | .andOrXor => handleAndOrXor e a b
  | .andiOriXori => handleAndiOriXori e a
  | .lui => handleLui e
  | .sll => handleSll e b
  | .srl => handleSrl e b
  | .beqBne => handleBeqBne e a b
  | .bltzBgez => handleBltzBgez e a
  | .blezBgtz => handleBlezBgtz e a
  | .bltzalBgezal => handleBltzalBgezal e a
  | .jalrJr => handleJalrJr e a
  | .load => handleLoad e a
  | .store => handleStore e a b
  | .mtcx => handleMtcx e b

/-- One step of CORE after the latch load (R93, R100 steps 2 and 3): the operands are `A = x[iw[25:21]]` and
`B = x[iw[20:16]]` (R18). -/
def State.handlerOutcome (s : State) : HandlerOutcome :=
  dispatch s.deex.opcodeId s.deex (s.readX (fieldRs s.deex.iw)) (s.readX (fieldRt s.deex.iw))

end Sys2Proof.Machine
end

