-- ==== Sys2Proof/Safety.lean ====
section
/-! DEFINITION. The terms claims use: what a decode row says, what an instruction changes and leaves unchanged, what it
means to complete, fault, branch, load or store, and the invariants of a legal machine. -/

namespace Sys2Proof.Machine

/-! ## Decode rows (30_encoding.md R70) -/

/-- Every word with this `op` decodes to the instruction `mk` reads from it. -/
def MajorRow (op : BitVec 6) (mk : IWord → Instr) : Prop :=
  ∀ w, fieldOp w = op → decode w = .ok (mk w)

/-- Every word with `op` = 0 and this `funct` decodes to the instruction `mk` reads from it. -/
def SpecialRow (funct : BitVec 6) (mk : IWord → Instr) : Prop :=
  ∀ w, fieldOp w = 0#6 → fieldFunct w = funct → decode w = .ok (mk w)

/-- Every word with `op` = 1 and this sub-opcode in bits 20:16 decodes to the instruction `mk` reads from it. -/
def RegimmRow (sub : BitVec 5) (mk : IWord → Instr) : Prop :=
  ∀ w, fieldOp w = 1#6 → fieldRt w = sub → decode w = .ok (mk w)

/-! ## Frames -/

/-- The registers of `t` are those of `s` after `v` is written to the extended index `d` (R19): index 0 is discarded,
1 to 31 are general-purpose registers, 32 to 63 control registers; every other register is unchanged. -/
def RegsAfter (s t : State) (d : Dest) (v : Value) : Prop :=
  (∀ r : Reg, t.readX r = if r ≠ 0#5 ∧ d = gprDest r then v else s.readX r) ∧
  (∀ r : Reg, t.readC r = if d = crDest r then v else s.readC r)

/-- Every register is unchanged. -/
def SameRegs (s t : State) : Prop :=
  (∀ r : Reg, t.readX r = s.readX r) ∧ (∀ r : Reg, t.readC r = s.readC r)

/-- Every byte of memory reads as before. -/
def SameMemory (s t : State) : Prop := ∀ a : Addr, t.byteAt a = s.byteAt a

/-- The launch and the status are unchanged, and so is the loaded word with its opcode id and pc (R29). -/
def SameLaunchAndWord (s t : State) : Prop :=
  t.text = s.text ∧ t.held = s.held ∧ t.status = s.status ∧
  t.deex.iw = s.deex.iw ∧ t.deex.opcodeId = s.deex.opcodeId ∧ t.deex.currentPc = s.deex.currentPc

/-- The next instruction handled is the one at `npc`, the one after it is sequential, and the squash mask is not
written (R27, R94). -/
def SequentialFlow (s t : State) : Prop :=
  t.pc = some s.fetchNextPc ∧ t.fetchNextPc = s.fetchNextPc + 4 ∧ t.deex.iwSquashMask = s.deex.iwSquashMask

/-! ## What an instruction does -/

/-- `i` completes: `v` goes to the extended index `d` with no request, and nothing else changes. -/
def Computes (i : Instr) (s : State) (d : Dest) (v : Value) : Prop :=
  ∃ t, exec i s = .next t ∧ t.exmem = { result := v, dest := d, req := none } ∧
    RegsAfter s t d v ∧ SameMemory s t ∧ SameLaunchAndWord s t ∧ SequentialFlow s t

/-- `i` raises the fault: the status records it with the pc and the word of the latch, and nothing else changes. -/
def Raises (i : Instr) (s : State) (kind : FaultKind) (access : Option (Addr × AccessKind)) : Prop :=
  exec i s = .next
    { s with status := .faulted { kind := kind, pc := s.deex.currentPc, iw := s.deex.iw, access := access } }

/-- `i` completes as a control transfer to `target` under the condition `taken`: the instruction at `npc` is handled
next, the one after it is at `target` if taken and else sequential, the squash mask becomes `mask`, and `v` goes to
the extended index `d`. -/
def Transfers (i : Instr) (s : State) (taken : Prop) (target : Addr) (mask : IWord) (d : Dest) (v : Value) : Prop :=
  ∃ t, exec i s = .next t ∧ t.exmem = { result := v, dest := d, req := none } ∧
    RegsAfter s t d v ∧ SameMemory s t ∧ SameLaunchAndWord s t ∧
    t.pc = some s.fetchNextPc ∧
    (taken → t.fetchNextPc = target) ∧ (¬taken → t.fetchNextPc = s.fetchNextPc + 4) ∧
    t.deex.iwSquashMask = mask

/-- An ordinary conditional branch (R151): the mask is NORMAL, taken or not. -/
def OrdinaryBranch (i : Instr) (s : State) (taken : Prop) (imm : Imm) (d : Dest) (v : Value) : Prop :=
  Transfers i s taken (s.deex.currentPc + 4 + imm.signExtend 64 * 4) 0xFFFFFFFF#32 d v

/-- A likely conditional branch (R151): the mask is SQUASHED exactly when the branch is not taken. -/
def LikelyBranch (i : Instr) (s : State) (taken : Prop) (imm : Imm) (d : Dest) (v : Value) : Prop :=
  (taken → Transfers i s taken (s.deex.currentPc + 4 + imm.signExtend 64 * 4) 0xFFFFFFFF#32 d v) ∧
  (¬taken → Transfers i s taken (s.deex.currentPc + 4 + imm.signExtend 64 * 4) 0x00000000#32 d v)

/-- Every byte of an access is held by the launch memory. -/
def Held (s : State) (ea : Addr) (size : AccessSize) : Prop := ∀ a ∈ accessAddrs ea size, s.holds a = true

/-- Every byte of an access is held by the launch memory and lies outside the program text. -/
def Writable (s : State) (ea : Addr) (size : AccessSize) : Prop :=
  ∀ a ∈ accessAddrs ea size, s.holds a = true ∧ s.inText a = false

/-- `i` completes as a load: the READ request and the seed are in EXMEM, `v` is committed to `rt` (nothing for
`rt` = 0), and nothing else changes. -/
def Loads (i : Instr) (s : State) (ea : Addr) (size : AccessSize) (seed : Value) (rt : Reg) (v : Value) : Prop :=
  ∃ t, exec i s = .next t ∧
    t.exmem = {
      result := seed
      dest := gprDest rt
      req := some { address := ea, kind := .read, size := size, writeWord := 0#32, laneMask := 0#32 } } ∧
    RegsAfter s t (gprDest rt) v ∧ SameMemory s t ∧ SameLaunchAndWord s t ∧ SequentialFlow s t

/-- `i` completes as a store: the WRITE request is in EXMEM, memory reads as `after` says, and nothing else
changes. -/
def Stores (i : Instr) (s : State) (ea : Addr) (size : AccessSize) (word mask : IWord) (after : Addr → Byte) : Prop :=
  ∃ t, exec i s = .next t ∧
    t.exmem = {
      result := 0#64
      dest := 0#6
      req := some { address := ea, kind := .write, size := size, writeWord := word, laneMask := mask } } ∧
    (∀ a, t.byteAt a = after a) ∧ SameRegs s t ∧ SameLaunchAndWord s t ∧ SequentialFlow s t

/-- The load `i` completes without a fault, and `rd` then holds `v` (0 when `rd` is register 0, R20). -/
def Delivers (i : Instr) (s : State) (rd : Reg) (v : Value) : Prop :=
  ∃ t, exec i s = .next t ∧ t.status = .running ∧ t.readX rd = if rd = 0#5 then 0#64 else v

/-- The access `i` is refused at the first of its bytes that the launch memory does not hold (log entry 10). -/
def RefusesAbsent (i : Instr) (s : State) (ea : Addr) (size : AccessSize) : Prop :=
  ∃ a, (accessAddrs ea size).find? (fun b => !s.holds b) = some a ∧ exec i s = .refused (.addressAbsent a)

/-! ## A running machine -/

/-- The machine is running with a word fetched, its run has not ended, and the fetch at `p` gives `w` (R270 steps 1 to
3). -/
def Fetches (s : State) (p : Addr) (w : IWord) : Prop :=
  s.status = .running ∧ s.pc = some p ∧ s.atEnd = false ∧ s.fetchWord = .ok w

/-- The state in which the handler of the step from `s` runs, with `w` the word fetched. -/
def State.atHandler (s : State) (w : IWord) : State := s.prime.loadDeex w

/-! ## Invariants -/

/-- A posted request (R45, R46, R48): aligned; a READ carries no word and no mask; a WRITE carries the lane mask of its
size and address and a word within it. -/
def BusRequest.wf (r : BusRequest) : Bool :=
  aligned r.size r.address &&
  match r.kind with
  | .read => r.writeWord == 0#32 && r.laneMask == 0#32
  | .write => r.laneMask == Machine.laneMask r.size r.address && r.writeWord &&& r.laneMask == r.writeWord

/-- The Execute/Memory latch (R14, R24, R190, R198): a request is well formed; beside a READ stands a seed and a
general-purpose destination, beside a WRITE the result 0 and the destination 0. -/
def ExmemLatch.wf (e : ExmemLatch) : Bool :=
  match e.req with
  | none => true
  | some r =>
    r.wf &&
    match r.kind with
    | .read => (e.result == ones64 || e.result == 0#64) && !e.dest.getLsbD 5
    | .write => e.result == 0#64 && e.dest == 0#6

/-- The Decode/Execute latch (R22, R92): the squash mask is NORMAL or SQUASHED, and the opcode id is that of the
word. -/
def DeexLatch.wf (e : DeexLatch) : Bool :=
  (e.iwSquashMask == maskNormal || e.iwSquashMask == maskSquashed) && e.opcodeId == decodeId e.iw

/-- The program text (R274): TEXT_BASE and TEXT_END are 64-bit addresses and multiples of 4. -/
def TextRange.wf (t : TextRange) : Bool :=
  t.base.toNat % 4 == 0 && t.size % 4 == 0 && decide (t.base.toNat + t.size < 2 ^ 64)

/-- The invariant of the machine: memory in canonical form, both latches legal, the program text legal. -/
def State.Inv (s : State) : Prop :=
  s.mem.wf = true ∧ s.deex.wf = true ∧ s.exmem.wf = true ∧ ∀ t, s.text = some t → t.wf = true

end Sys2Proof.Machine
end

