-- ==== Sys2Proof/Certificates/Slice0/Obligations.lean ====
section
/-! DEFINITION. The statements for the provers, made from the numbered rules of spec/. In each, `exec i s` is the
instruction `i` in a state `s` whose Decode/Execute latch has been loaded (R23); `s.readX` and `s.readC` are the
register files, `s.byteAt` a byte of memory. The vocabulary is that of Safety.lean. -/

open Sys2Proof Sys2Proof.Machine

/-! ## Encoding (30_encoding.md) -/

/-- R62 to R65, R70: the encoding drops no operand bit, as a word and as bytes in fetch order. -/
def Obligations.DecodeInvertsEncode : Prop :=
  ∀ (i : Instr) (rest : List Byte), i.WellFormed = true →
    decode (encode i) = .ok i ∧ decodeBytes (wordBytes (encode i) ++ rest) = .ok (i, rest)

/-- R72: a decodable word is the encoding of its instruction but for the bits the instruction does not use. -/
def Obligations.EncodeKeepsUsedBits : Prop :=
  ∀ (w : IWord) (i : Instr), decode w = .ok i → i.WellFormed = true ∧ encode i = w &&& i.usedBits

/-- R72: the bits an instruction does not use are ignored by decode. -/
def Obligations.UnusedBitsIgnored : Prop :=
  ∀ (w v : IWord) (i : Instr), decode w = .ok i → v &&& i.usedBits = w &&& i.usedBits → decode v = .ok i

/-- R70, R73: the words of a row of the opcode table, and no others, decode to that row's instruction; any other word
has the opcode id INVALID. The values of the rows are the spec's decision D2. -/
def Obligations.DecodeFollowsOpcodeTable : Prop :=
  (∀ (w : IWord) (r : TableRow), r ∈ opcodeTable →
    (r.matches w = true ↔ ∃ i, decode w = .ok i ∧ i.mnemonic = r.mnemonic)) ∧
  (∀ w : IWord, (∀ r ∈ opcodeTable, r.matches w = false) → decodeId w = .invalid)

/-- Words written out from the encodings of R62 to R65 and R70, with the instructions they stand for. -/
def Obligations.SampleWordsDecode : Prop :=
  decode 0x00851020 = .ok (.add 2 4 5) ∧ decode 0x20080064 = .ok (.addi 8 0 0x0064) ∧
  decode 0x00851024 = .ok (.and 2 4 5) ∧ decode 0x00051100 = .ok (.sll 2 5 4) ∧
  decode 0x10850003 = .ok (.beq 4 5 3) ∧ decode 0x04930003 = .ok (.bgezall 4 3) ∧
  decode 0x0100F809 = .ok (.jalr 31 8) ∧ decode 0x94820002 = .ok (.lhu 2 4 2) ∧
  decode 0xAC85FFFC = .ok (.sw 5 4 0xFFFC) ∧ decode 0x40856000 = .ok (.mtc0 5 12) ∧
  decode 0x0000000C = .error (.specialFunct 0x0C)

/-! ## Add and subtract (41_arith_logic.md sections 1 to 3) -/

/-- R112, R113: ADD and SUB put the sign-extended low 32 bits of the 64-bit sum or difference in `rd`, or raise
IntegerOverflow when its bits 32 and 31 differ. -/
def Obligations.AddSubTrapping : Prop :=
  SpecialRow 0x20#6 (fun w => .add (fieldRd w) (fieldRs w) (fieldRt w)) ∧
  SpecialRow 0x22#6 (fun w => .sub (fieldRd w) (fieldRs w) (fieldRt w)) ∧
  ∀ (rd rs rt : Reg) (s : State),
    ((s.readX rs + s.readX rt).getLsbD 32 = (s.readX rs + s.readX rt).getLsbD 31 →
      Computes (.add rd rs rt) s (gprDest rd) (((s.readX rs + s.readX rt).setWidth 32).signExtend 64)) ∧
    ((s.readX rs + s.readX rt).getLsbD 32 ≠ (s.readX rs + s.readX rt).getLsbD 31 →
      Raises (.add rd rs rt) s .integerOverflow none) ∧
    ((s.readX rs - s.readX rt).getLsbD 32 = (s.readX rs - s.readX rt).getLsbD 31 →
      Computes (.sub rd rs rt) s (gprDest rd) (((s.readX rs - s.readX rt).setWidth 32).signExtend 64)) ∧
    ((s.readX rs - s.readX rt).getLsbD 32 ≠ (s.readX rs - s.readX rt).getLsbD 31 →
      Raises (.sub rd rs rt) s .integerOverflow none)

/-- R118, R119: ADDU and SUBU never fault. -/
def Obligations.AddSubWrapping : Prop :=
  SpecialRow 0x21#6 (fun w => .addu (fieldRd w) (fieldRs w) (fieldRt w)) ∧
  SpecialRow 0x23#6 (fun w => .subu (fieldRd w) (fieldRs w) (fieldRt w)) ∧
  ∀ (rd rs rt : Reg) (s : State),
    Computes (.addu rd rs rt) s (gprDest rd) (((s.readX rs + s.readX rt).setWidth 32).signExtend 64) ∧
    Computes (.subu rd rs rt) s (gprDest rd) (((s.readX rs - s.readX rt).setWidth 32).signExtend 64)

/-- R114, R115: ADDI faults as ADD does, ADDIU never; the immediate is sign-extended in both. -/
def Obligations.AddImmediate : Prop :=
  MajorRow 0x08#6 (fun w => .addi (fieldRt w) (fieldRs w) (fieldImm w)) ∧
  MajorRow 0x09#6 (fun w => .addiu (fieldRt w) (fieldRs w) (fieldImm w)) ∧
  ∀ (rt rs : Reg) (imm : Imm) (s : State),
    ((s.readX rs + imm.signExtend 64).getLsbD 32 = (s.readX rs + imm.signExtend 64).getLsbD 31 →
      Computes (.addi rt rs imm) s (gprDest rt) (((s.readX rs + imm.signExtend 64).setWidth 32).signExtend 64)) ∧
    ((s.readX rs + imm.signExtend 64).getLsbD 32 ≠ (s.readX rs + imm.signExtend 64).getLsbD 31 →
      Raises (.addi rt rs imm) s .integerOverflow none) ∧
    Computes (.addiu rt rs imm) s (gprDest rt) (((s.readX rs + imm.signExtend 64).setWidth 32).signExtend 64)

/-- R116, R117: SUBI and SUBIU, to which no word decodes: the difference in `rt`, or for SUBI the overflow fault. -/
def Obligations.SubImmediateVariants : Prop :=
  ∀ (rt rs : Reg) (imm : Imm) (s : State),
    ((s.readX rs - imm.signExtend 64).getLsbD 32 = (s.readX rs - imm.signExtend 64).getLsbD 31 →
      ∃ t, execSubi rt rs imm s = .next t ∧
        t.exmem = {
          result := ((s.readX rs - imm.signExtend 64).setWidth 32).signExtend 64, dest := gprDest rt, req := none } ∧
        SameMemory s t ∧ SameLaunchAndWord s t ∧ SequentialFlow s t ∧
        RegsAfter s t (gprDest rt) (((s.readX rs - imm.signExtend 64).setWidth 32).signExtend 64)) ∧
    ((s.readX rs - imm.signExtend 64).getLsbD 32 ≠ (s.readX rs - imm.signExtend 64).getLsbD 31 →
      execSubi rt rs imm s = .next (s.takeFault (s.deex.faultInfo .integerOverflow none))) ∧
    ∃ t, execSubiu rt rs imm s = .next t ∧
      t.exmem = {
        result := ((s.readX rs - imm.signExtend 64).setWidth 32).signExtend 64, dest := gprDest rt, req := none } ∧
      SameMemory s t ∧ SameLaunchAndWord s t ∧ SequentialFlow s t ∧
      RegsAfter s t (gprDest rt) (((s.readX rs - imm.signExtend 64).setWidth 32).signExtend 64)

/-- R111: for sign-extended 32-bit operands, overflow is exactly that the mathematical sum or difference lies outside
-2^31 .. 2^31-1. -/
def Obligations.OverflowIsOutOfRange : Prop :=
  ∀ (a b : BitVec 32),
    (overflow (rawSum (a.signExtend 64) (b.signExtend 64) false) = true ↔
      ¬(-2147483648 ≤ a.toInt + b.toInt ∧ a.toInt + b.toInt ≤ 2147483647)) ∧
    (overflow (rawSum (a.signExtend 64) (b.signExtend 64) true) = true ↔
      ¬(-2147483648 ≤ a.toInt - b.toInt ∧ a.toInt - b.toInt ≤ 2147483647))

/-! ## Bitwise, load upper, shifts (41_arith_logic.md sections 4 to 6) -/

/-- R122 to R124: AND, OR and XOR act on all 64 bits. -/
def Obligations.BitwiseRegister : Prop :=
  SpecialRow 0x24#6 (fun w => .and (fieldRd w) (fieldRs w) (fieldRt w)) ∧
  SpecialRow 0x25#6 (fun w => .or (fieldRd w) (fieldRs w) (fieldRt w)) ∧
  SpecialRow 0x26#6 (fun w => .xor (fieldRd w) (fieldRs w) (fieldRt w)) ∧
  ∀ (rd rs rt : Reg) (s : State),
    Computes (.and rd rs rt) s (gprDest rd) (s.readX rs &&& s.readX rt) ∧
    Computes (.or rd rs rt) s (gprDest rd) (s.readX rs ||| s.readX rt) ∧
    Computes (.xor rd rs rt) s (gprDest rd) (s.readX rs ^^^ s.readX rt)

/-- R125, R126, R128: ANDI, ORI and XORI zero-extend the immediate, which is the spec's decision D5. -/
def Obligations.BitwiseImmediate : Prop :=
  MajorRow 0x0C#6 (fun w => .andi (fieldRt w) (fieldRs w) (fieldImm w)) ∧
  MajorRow 0x0D#6 (fun w => .ori (fieldRt w) (fieldRs w) (fieldImm w)) ∧
  MajorRow 0x0E#6 (fun w => .xori (fieldRt w) (fieldRs w) (fieldImm w)) ∧
  ∀ (rt rs : Reg) (imm : Imm) (s : State),
    Computes (.andi rt rs imm) s (gprDest rt) (s.readX rs &&& imm.setWidth 64) ∧
    Computes (.ori rt rs imm) s (gprDest rt) (s.readX rs ||| imm.setWidth 64) ∧
    Computes (.xori rt rs imm) s (gprDest rt) (s.readX rs ^^^ imm.setWidth 64)

/-- R121: the two bitwise handlers at every selector value, the reserved value 3 included, whose result is 0; the
destination field is the same for all four. -/
def Obligations.BitwiseSelectorValues : Prop :=
  ∀ (e : DeexLatch) (a b : Value),
    handleAndOrXor e a b = resultOnly (gprDest (fieldRd e.iw))
      (if e.iw.extractLsb' 0 2 = 0#2 then a &&& b else if e.iw.extractLsb' 0 2 = 1#2 then a ||| b
        else if e.iw.extractLsb' 0 2 = 2#2 then a ^^^ b else 0#64) ∧
    handleAndiOriXori e a = resultOnly (gprDest (fieldRt e.iw))
      (if e.iw.extractLsb' 26 2 = 0#2 then a &&& (fieldImm e.iw).setWidth 64
        else if e.iw.extractLsb' 26 2 = 1#2 then a ||| (fieldImm e.iw).setWidth 64
        else if e.iw.extractLsb' 26 2 = 2#2 then a ^^^ (fieldImm e.iw).setWidth 64 else 0#64)

/-- R129: LUI. -/
def Obligations.LoadUpperImmediate : Prop :=
  MajorRow 0x0F#6 (fun w => .lui (fieldRt w) (fieldImm w)) ∧
  ∀ (rt : Reg) (imm : Imm) (s : State), Computes (.lui rt imm) s (gprDest rt) ((imm ++ 0#16).signExtend 64)

/-- R127, R130: SLL and SRL shift the low 32 bits of `B`, zeros entering, and sign-extend the 32-bit result; that
SRL is logical and starts from the low 32 bits is the spec's decision D10. A word's shift amount is below 32 (R127); that
the meaning is this one for every natural number is the model's choice (log entry 14). -/
def Obligations.Shifts : Prop :=
  SpecialRow 0x00#6 (fun w => .sll (fieldRd w) (fieldRt w) (fieldSa w).toNat) ∧
  SpecialRow 0x02#6 (fun w => .srl (fieldRd w) (fieldRt w) (fieldSa w).toNat) ∧
  ∀ (rd rt : Reg) (sa : Nat) (s : State),
    Computes (.sll rd rt sa) s (gprDest rd) (((s.readX rt).setWidth 32 <<< sa).signExtend 64) ∧
    Computes (.srl rd rt sa) s (gprDest rd) (((s.readX rt).setWidth 32 >>> sa).signExtend 64)

/-! ## Branches and jumps (42_branch_jump.md) -/

/-- R153, R154: BEQ and BNE. -/
def Obligations.EqualityBranches : Prop :=
  MajorRow 0x04#6 (fun w => .beq (fieldRs w) (fieldRt w) (fieldImm w)) ∧
  MajorRow 0x05#6 (fun w => .bne (fieldRs w) (fieldRt w) (fieldImm w)) ∧
  ∀ (rs rt : Reg) (imm : Imm) (s : State),
    OrdinaryBranch (.beq rs rt imm) s (s.readX rs = s.readX rt) imm 0#6 0#64 ∧
    OrdinaryBranch (.bne rs rt imm) s (s.readX rs ≠ s.readX rt) imm 0#6 0#64

/-- R155, R156: BEQL and BNEL. -/
def Obligations.EqualityBranchesLikely : Prop :=
  MajorRow 0x14#6 (fun w => .beql (fieldRs w) (fieldRt w) (fieldImm w)) ∧
  MajorRow 0x15#6 (fun w => .bnel (fieldRs w) (fieldRt w) (fieldImm w)) ∧
  ∀ (rs rt : Reg) (imm : Imm) (s : State),
    LikelyBranch (.beql rs rt imm) s (s.readX rs = s.readX rt) imm 0#6 0#64 ∧
    LikelyBranch (.bnel rs rt imm) s (s.readX rs ≠ s.readX rt) imm 0#6 0#64

/-- R157, R159: BGEZ and BLTZ. -/
def Obligations.SignBranches : Prop :=
  RegimmRow 0x01#5 (fun w => .bgez (fieldRs w) (fieldImm w)) ∧
  RegimmRow 0x00#5 (fun w => .bltz (fieldRs w) (fieldImm w)) ∧
  ∀ (rs : Reg) (imm : Imm) (s : State),
    OrdinaryBranch (.bgez rs imm) s (0 ≤ (s.readX rs).toInt) imm 0#6 0#64 ∧
    OrdinaryBranch (.bltz rs imm) s ((s.readX rs).toInt < 0) imm 0#6 0#64

/-- R158, R160: BGEZL and BLTZL. -/
def Obligations.SignBranchesLikely : Prop :=
  RegimmRow 0x03#5 (fun w => .bgezl (fieldRs w) (fieldImm w)) ∧
  RegimmRow 0x02#5 (fun w => .bltzl (fieldRs w) (fieldImm w)) ∧
  ∀ (rs : Reg) (imm : Imm) (s : State),
    LikelyBranch (.bgezl rs imm) s (0 ≤ (s.readX rs).toInt) imm 0#6 0#64 ∧
    LikelyBranch (.bltzl rs imm) s ((s.readX rs).toInt < 0) imm 0#6 0#64

/-- R161, R163: BGTZ and BLEZ. -/
def Obligations.ZeroBranches : Prop :=
  MajorRow 0x07#6 (fun w => .bgtz (fieldRs w) (fieldImm w)) ∧
  MajorRow 0x06#6 (fun w => .blez (fieldRs w) (fieldImm w)) ∧
  ∀ (rs : Reg) (imm : Imm) (s : State),
    OrdinaryBranch (.bgtz rs imm) s (0 < (s.readX rs).toInt) imm 0#6 0#64 ∧
    OrdinaryBranch (.blez rs imm) s ((s.readX rs).toInt ≤ 0) imm 0#6 0#64

/-- R162, R164: BGTZL and BLEZL. -/
def Obligations.ZeroBranchesLikely : Prop :=
  MajorRow 0x17#6 (fun w => .bgtzl (fieldRs w) (fieldImm w)) ∧
  MajorRow 0x16#6 (fun w => .blezl (fieldRs w) (fieldImm w)) ∧
  ∀ (rs : Reg) (imm : Imm) (s : State),
    LikelyBranch (.bgtzl rs imm) s (0 < (s.readX rs).toInt) imm 0#6 0#64 ∧
    LikelyBranch (.blezl rs imm) s ((s.readX rs).toInt ≤ 0) imm 0#6 0#64

/-- R165, R167: BGEZAL and BLTZAL link to register 31 whether or not they are taken; the old register is tested. -/
def Obligations.LinkingBranches : Prop :=
  RegimmRow 0x11#5 (fun w => .bgezal (fieldRs w) (fieldImm w)) ∧
  RegimmRow 0x10#5 (fun w => .bltzal (fieldRs w) (fieldImm w)) ∧
  ∀ (rs : Reg) (imm : Imm) (s : State),
    OrdinaryBranch (.bgezal rs imm) s (0 ≤ (s.readX rs).toInt) imm 31#6 (s.deex.currentPc + 4) ∧
    OrdinaryBranch (.bltzal rs imm) s ((s.readX rs).toInt < 0) imm 31#6 (s.deex.currentPc + 4)

/-- R166, R168: BGEZALL and BLTZALL link also when the branch is not taken and the delay slot is squashed. -/
def Obligations.LinkingBranchesLikely : Prop :=
  RegimmRow 0x13#5 (fun w => .bgezall (fieldRs w) (fieldImm w)) ∧
  RegimmRow 0x12#5 (fun w => .bltzall (fieldRs w) (fieldImm w)) ∧
  ∀ (rs : Reg) (imm : Imm) (s : State),
    LikelyBranch (.bgezall rs imm) s (0 ≤ (s.readX rs).toInt) imm 31#6 (s.deex.currentPc + 4) ∧
    LikelyBranch (.bltzall rs imm) s ((s.readX rs).toInt < 0) imm 31#6 (s.deex.currentPc + 4)

/-- R170, R171: JALR and JR go to all 64 bits of the old `x[rs]`, whatever its low bits; JALR links to `rd`, JR aims
`pc + 4` at index 0; neither writes the squash mask. -/
def Obligations.RegisterJumps : Prop :=
  SpecialRow 0x09#6 (fun w => .jalr (fieldRd w) (fieldRs w)) ∧
  SpecialRow 0x08#6 (fun w => .jr (fieldRs w)) ∧
  ∀ (rd rs : Reg) (s : State),
    Transfers (.jalr rd rs) s True (s.readX rs) s.deex.iwSquashMask (gprDest rd) (s.deex.currentPc + 4) ∧
    Transfers (.jr rs) s True (s.readX rs) s.deex.iwSquashMask 0#6 (s.deex.currentPc + 4)

/-- R169: the register-jump handler on any word: bit 0 of the word masks the destination index (that it is bit 0 is the
spec's decision D7). -/
def Obligations.RegisterJumpHandler : Prop :=
  ∀ (e : DeexLatch) (a : Value), handleJalrJr e a = .ok {
    result := e.currentPc + 4
    dest := if e.iw.getLsbD 0 then gprDest (fieldRd e.iw) else 0#6
    req := none
    nextPc := some a
    squashMask := none }

/-- R150: the target is a signed distance of -131072 to +131068 bytes, a multiple of 4, from the delay slot, modulo
2^64. -/
def Obligations.BranchTargetDistance : Prop :=
  ∀ (pc : Addr) (imm : Imm),
    branchTarget pc imm = pc + 4 + BitVec.ofInt 64 (4 * imm.toInt) ∧
    -131072 ≤ 4 * imm.toInt ∧ 4 * imm.toInt ≤ 131068 ∧
    (branchTarget pc imm).extractLsb' 0 2 = pc.extractLsb' 0 2

/-! ## Loads and stores (43_load_store.md, 20_memory.md) -/

/-- R192, R193: LB and LBU. -/
def Obligations.ByteLoads : Prop :=
  MajorRow 0x20#6 (fun w => .lb (fieldRt w) (fieldRs w) (fieldImm w)) ∧
  MajorRow 0x24#6 (fun w => .lbu (fieldRt w) (fieldRs w) (fieldImm w)) ∧
  ∀ (rt rs : Reg) (imm : Imm) (s : State) (ea : Addr), ea = s.readX rs + imm.signExtend 64 → Held s ea .byte →
    Loads (.lb rt rs imm) s ea .byte ones64 rt ((s.byteAt ea).signExtend 64) ∧
    Loads (.lbu rt rs imm) s ea .byte 0#64 rt ((s.byteAt ea).setWidth 64)

/-- R194, R195: LH and LHU, with their alignment fault. -/
def Obligations.HalfwordLoads : Prop :=
  MajorRow 0x21#6 (fun w => .lh (fieldRt w) (fieldRs w) (fieldImm w)) ∧
  MajorRow 0x25#6 (fun w => .lhu (fieldRt w) (fieldRs w) (fieldImm w)) ∧
  ∀ (rt rs : Reg) (imm : Imm) (s : State) (ea : Addr), ea = s.readX rs + imm.signExtend 64 →
    (ea.toNat % 2 = 0 → Held s ea .half →
      Loads (.lh rt rs imm) s ea .half ones64 rt ((bytesHalf (s.byteAt ea) (s.byteAt (ea + 1))).signExtend 64) ∧
      Loads (.lhu rt rs imm) s ea .half 0#64 rt ((bytesHalf (s.byteAt ea) (s.byteAt (ea + 1))).setWidth 64)) ∧
    (ea.toNat % 2 ≠ 0 →
      Raises (.lh rt rs imm) s .unalignedAddress (some (ea, .read)) ∧
      Raises (.lhu rt rs imm) s .unalignedAddress (some (ea, .read)))

/-- R196, R197: LW and LWU, with their alignment fault. LWU's zero extension is an inference that R197 marks as the
spec's own: "That the source's "signed/unsigned" covers the word size too is this spec's reading" (N9). -/
def Obligations.WordLoads : Prop :=
  MajorRow 0x23#6 (fun w => .lw (fieldRt w) (fieldRs w) (fieldImm w)) ∧
  MajorRow 0x27#6 (fun w => .lwu (fieldRt w) (fieldRs w) (fieldImm w)) ∧
  ∀ (rt rs : Reg) (imm : Imm) (s : State) (ea : Addr), ea = s.readX rs + imm.signExtend 64 →
    (ea.toNat % 4 = 0 → Held s ea .word →
      Loads (.lw rt rs imm) s ea .word ones64 rt
        ((bytesWord (s.byteAt ea) (s.byteAt (ea + 1)) (s.byteAt (ea + 2)) (s.byteAt (ea + 3))).signExtend 64) ∧
      Loads (.lwu rt rs imm) s ea .word 0#64 rt
        ((bytesWord (s.byteAt ea) (s.byteAt (ea + 1)) (s.byteAt (ea + 2)) (s.byteAt (ea + 3))).setWidth 64)) ∧
    (ea.toNat % 4 ≠ 0 →
      Raises (.lw rt rs imm) s .unalignedAddress (some (ea, .read)) ∧
      Raises (.lwu rt rs imm) s .unalignedAddress (some (ea, .read)))

/-- R199: SB stores the low byte of `B` at the effective address and touches no other byte. -/
def Obligations.ByteStore : Prop :=
  MajorRow 0x28#6 (fun w => .sb (fieldRt w) (fieldRs w) (fieldImm w)) ∧
  ∀ (rt rs : Reg) (imm : Imm) (s : State) (ea : Addr), ea = s.readX rs + imm.signExtend 64 → Writable s ea .byte →
    Stores (.sb rt rs imm) s ea .byte
      (((s.readX rt).setWidth 32 <<< 24) >>> (8 * (ea.extractLsb' 0 2).toNat))
      (0xFF000000#32 >>> (8 * (ea.extractLsb' 0 2).toNat))
      (fun a => if a = ea then (s.readX rt).extractLsb' 0 8 else s.byteAt a)

/-- R200: SH stores two bytes, the high one at the effective address; an odd address faults. -/
def Obligations.HalfwordStore : Prop :=
  MajorRow 0x29#6 (fun w => .sh (fieldRt w) (fieldRs w) (fieldImm w)) ∧
  ∀ (rt rs : Reg) (imm : Imm) (s : State) (ea : Addr), ea = s.readX rs + imm.signExtend 64 →
    (ea.toNat % 2 = 0 → Writable s ea .half →
      Stores (.sh rt rs imm) s ea .half
        (((s.readX rt).setWidth 32 <<< 16) >>> (8 * (ea.extractLsb' 0 2).toNat))
        (0xFFFF0000#32 >>> (8 * (ea.extractLsb' 0 2).toNat))
        (fun a => if a = ea then (s.readX rt).extractLsb' 8 8
          else if a = ea + 1 then (s.readX rt).extractLsb' 0 8 else s.byteAt a)) ∧
    (ea.toNat % 2 ≠ 0 → Raises (.sh rt rs imm) s .unalignedAddress (some (ea, .write)))

/-- R201: SW stores four bytes, the most significant at the effective address; an address that is no multiple of 4
faults. -/
def Obligations.WordStore : Prop :=
  MajorRow 0x2B#6 (fun w => .sw (fieldRt w) (fieldRs w) (fieldImm w)) ∧
  ∀ (rt rs : Reg) (imm : Imm) (s : State) (ea : Addr), ea = s.readX rs + imm.signExtend 64 →
    (ea.toNat % 4 = 0 → Writable s ea .word →
      Stores (.sw rt rs imm) s ea .word ((s.readX rt).setWidth 32) 0xFFFFFFFF#32
        (fun a => if a = ea then (s.readX rt).extractLsb' 24 8
          else if a = ea + 1 then (s.readX rt).extractLsb' 16 8
          else if a = ea + 2 then (s.readX rt).extractLsb' 8 8
          else if a = ea + 3 then (s.readX rt).extractLsb' 0 8 else s.byteAt a)) ∧
    (ea.toNat % 4 ≠ 0 → Raises (.sw rt rs imm) s .unalignedAddress (some (ea, .write)))

/-- R202, R74: the LOAD and STORE handlers raise ReservedInstruction for size code 2, whatever the address. -/
def Obligations.ReservedSizeCode : Prop :=
  ∀ (e : DeexLatch) (a b : Value), e.iw.extractLsb' 26 2 = 2#2 →
    handleLoad e a = .fault { kind := .reservedInstruction, pc := e.currentPc, iw := e.iw, access := none } ∧
    handleStore e a b = .fault { kind := .reservedInstruction, pc := e.currentPc, iw := e.iw, access := none }

/-- R44: MemRead joins the bytes from `a` on, the first most significant; MemWrite lays the bytes out in the same
order and changes no other byte; reading after writing gives the low bytes of the value. The byte order is the spec's
decision D3. -/
def Obligations.MemoryPrimitives : Prop :=
  ∀ (s : State) (a b : Addr) (v : Value),
    (s.memRead a .byte).toNat = (s.byteAt a).toNat ∧
    (s.memRead a .half).toNat = (s.byteAt a).toNat * 256 + (s.byteAt (a + 1)).toNat ∧
    (s.memRead a .word).toNat = (s.byteAt a).toNat * 16777216 + (s.byteAt (a + 1)).toNat * 65536 +
      (s.byteAt (a + 2)).toNat * 256 + (s.byteAt (a + 3)).toNat ∧
    (s.memWrite a v .byte).byteAt b = (if b = a then v.extractLsb' 0 8 else s.byteAt b) ∧
    (s.memWrite a v .half).byteAt b =
      (if b = a then v.extractLsb' 8 8 else if b = a + 1 then v.extractLsb' 0 8 else s.byteAt b) ∧
    (s.memWrite a v .word).byteAt b =
      (if b = a then v.extractLsb' 24 8 else if b = a + 1 then v.extractLsb' 16 8
        else if b = a + 2 then v.extractLsb' 8 8 else if b = a + 3 then v.extractLsb' 0 8 else s.byteAt b) ∧
    (s.memWrite a v .byte).memRead a .byte = (v.setWidth 8).setWidth 64 ∧
    (s.memWrite a v .half).memRead a .half = (v.setWidth 16).setWidth 64 ∧
    (s.memWrite a v .word).memRead a .word = (v.setWidth 32).setWidth 64

/-- R46: for an aligned store, writing the lanes that the mask selects is MemWrite of the low bytes. -/
def Obligations.LaneWriteIsMemWrite : Prop :=
  ∀ (s : State) (size : AccessSize) (ea : Addr) (b : Value), aligned size ea = true →
    s.setBytes (selectedLanes {
        address := ea, kind := .write, size := size, writeWord := writeWord size ea b, laneMask := laneMask size ea }) =
      s.memWrite ea b size

/-- R47: the committed value is the sign extension of the data for the all-one seed, the zero extension for 0. -/
def Obligations.LoadedCombination : Prop :=
  (∀ d : BitVec 8, loaded .byte (d.setWidth 64) ones64 = d.signExtend 64 ∧
    loaded .byte (d.setWidth 64) 0#64 = d.setWidth 64) ∧
  (∀ d : BitVec 16, loaded .half (d.setWidth 64) ones64 = d.signExtend 64 ∧
    loaded .half (d.setWidth 64) 0#64 = d.setWidth 64) ∧
  (∀ d : BitVec 32, loaded .word (d.setWidth 64) ones64 = d.signExtend 64 ∧
    loaded .word (d.setWidth 64) 0#64 = d.setWidth 64)

/-- R53 (b), (c): a load sees what the latest store of its size to the same place left, whichever registers and offsets
address the two, and the instruction after it sees the loaded value. After such a store the load always completes. -/
def Obligations.LoadAfterStore : Prop :=
  ∀ (rt rd rs base : Reg) (imm off : Imm) (s t : State),
    s.readX base + off.signExtend 64 = s.readX rs + imm.signExtend 64 → t.status = .running →
    (exec (.sw rt rs imm) s = .next t →
      Delivers (.lw rd base off) t rd (((s.readX rt).setWidth 32).signExtend 64) ∧
      Delivers (.lwu rd base off) t rd (((s.readX rt).setWidth 32).setWidth 64)) ∧
    (exec (.sh rt rs imm) s = .next t →
      Delivers (.lh rd base off) t rd (((s.readX rt).setWidth 16).signExtend 64) ∧
      Delivers (.lhu rd base off) t rd (((s.readX rt).setWidth 16).setWidth 64)) ∧
    (exec (.sb rt rs imm) s = .next t →
      Delivers (.lb rd base off) t rd (((s.readX rt).setWidth 8).signExtend 64) ∧
      Delivers (.lbu rd base off) t rd (((s.readX rt).setWidth 8).setWidth 64))

/-- R56, R285 (the spec's decision D23): an aligned store that touches the program text is refused. That the refusal
names a byte of the store that lies there, and that it is this refusal also when another byte is absent, the text being
looked at first, is the model's choice (log entry 10). -/
def Obligations.StoreIntoTextRefused : Prop :=
  ∀ (rt rs : Reg) (imm : Imm) (s : State) (ea : Addr), ea = s.readX rs + imm.signExtend 64 →
    (s.inText ea = true → exec (.sb rt rs imm) s = .refused (.storeIntoText ea)) ∧
    (ea.toNat % 2 = 0 → (∃ a ∈ accessAddrs ea .half, s.inText a = true) →
      ∃ a ∈ accessAddrs ea .half, s.inText a = true ∧ exec (.sh rt rs imm) s = .refused (.storeIntoText a)) ∧
    (ea.toNat % 4 = 0 → (∃ a ∈ accessAddrs ea .word, s.inText a = true) →
      ∃ a ∈ accessAddrs ea .word, s.inText a = true ∧ exec (.sw rt rs imm) s = .refused (.storeIntoText a))

/-- 93_implementation_defined.md U16: an aligned access of which any byte is absent from the launch memory is refused; a
store, when no byte of it lies in the program text (StoreIntoTextRefused has the others). That the refusal names the
first absent byte is the model's choice (log entry 10), and so is that `State` holds the addresses as regions (log
entry 5). -/
def Obligations.AbsentAddressRefused : Prop :=
  ∀ (rt rs : Reg) (imm : Imm) (s : State) (ea : Addr), ea = s.readX rs + imm.signExtend 64 →
    (s.holds ea = false →
      RefusesAbsent (.lb rt rs imm) s ea .byte ∧ RefusesAbsent (.lbu rt rs imm) s ea .byte ∧
      RefusesAbsent (.sb rt rs imm) s ea .byte) ∧
    (ea.toNat % 2 = 0 → (∃ a ∈ accessAddrs ea .half, s.holds a = false) →
      RefusesAbsent (.lh rt rs imm) s ea .half ∧ RefusesAbsent (.lhu rt rs imm) s ea .half ∧
      ((∀ a ∈ accessAddrs ea .half, s.inText a = false) → RefusesAbsent (.sh rt rs imm) s ea .half)) ∧
    (ea.toNat % 4 = 0 → (∃ a ∈ accessAddrs ea .word, s.holds a = false) →
      RefusesAbsent (.lw rt rs imm) s ea .word ∧ RefusesAbsent (.lwu rt rs imm) s ea .word ∧
      ((∀ a ∈ accessAddrs ea .word, s.inText a = false) → RefusesAbsent (.sw rt rs imm) s ea .word))

/-- The canonical form of memory, which is the model's (log entry 5): memories that read alike at every address are
equal data. -/
def Obligations.CanonicalMemoriesEqual : Prop :=
  ∀ (m n : Memory), m.wf = true → n.wf = true → (∀ a, a < 2 ^ 64 → m.read a = n.read a) → m = n

/-! ## Control registers (44_control_move.md) -/

/-- R220: MTC0 puts the sign-extended low 32 bits of `B` in control register `rd`, 0 included. -/
def Obligations.MoveToControl : Prop :=
  (∀ w, fieldOp w = 0x10#6 → fieldRs w = 0x04#5 → decode w = .ok (.mtc0 (fieldRt w) (fieldRd w))) ∧
  ∀ (rt rd : Reg) (s : State), Computes (.mtc0 rt rd) s (crDest rd) (((s.readX rt).setWidth 32).signExtend 64)

/-- R17: MTC0 is the one instruction that changes a control register. -/
def Obligations.OnlyMtc0ChangesControl : Prop :=
  ∀ (s t : State) (r : Reg), step s = .next t → t.readC r ≠ s.readC r →
    ∃ rt, decode t.deex.iw = .ok (.mtc0 rt r) ∧ t.readC r = ((s.readX rt).setWidth 32).signExtend 64

/-! ## Dispatch, faults (40_dispatch_and_tables.md, 60_exceptions.md) -/

/-- R71, R92, R93: on every decodable word, the handler that the dispatch table gives, selecting its variant by bits
of the word, has the outcome that the instruction's meaning completes. -/
def Obligations.DispatchTableAgrees : Prop :=
  ∀ (s : State) (i : Instr), decode s.deex.iw = .ok i → s.deex.opcodeId = decodeId s.deex.iw →
    exec i s = s.complete s.handlerOutcome

/-- R230, R236: what each instruction can raise; no instruction but these raises anything. -/
def Obligations.FaultsByInstruction : Prop :=
  ∀ (i : Instr) (s t : State) (f : FaultInfo), s.status = .running → exec i s = .next t → t.status = .faulted f →
    (f.kind = .integerOverflow ∧ f.access = none ∧ i.mnemonic ∈ ["ADD", "SUB", "ADDI"]) ∨
    (f.kind = .unalignedAddress ∧ (∃ ea, f.access = some (ea, .read)) ∧ i.mnemonic ∈ ["LH", "LHU", "LW", "LWU"]) ∨
    (f.kind = .unalignedAddress ∧ (∃ ea, f.access = some (ea, .write)) ∧ i.mnemonic ∈ ["SH", "SW"])

/-- R232, R234: a step that ends in a fault has loaded the word, and has written nothing but the record of the fault.
That the handler writes nothing at all is the spec's decision D12; that EXMEM keeps its value, where R232 allows the
bubble too, is log entry 15; that the fault is a next state is log entry 6; the address fetched from when nothing had
been fetched is log entry 8. -/
def Obligations.FaultingStepWritesNothing : Prop :=
  ∀ (s t : State) (f : FaultInfo), step s = .next t → t.status = .faulted f →
    ∃ w, s.prime.fetchWord = .ok w ∧ t = { s.atHandler w with status := .faulted f } ∧
      f.pc = s.fetchAddr ∧ f.iw = w &&& s.deex.iwSquashMask ∧
      SameRegs s t ∧ SameMemory s t ∧ t.exmem = s.exmem ∧ t.fetchNextPc = s.prime.fetchNextPc ∧
      t.deex.iwSquashMask = 0xFFFFFFFF#32

/-- R225: a word that decodes to no instruction raises UnimplementedOpcode with the word and its pc, and writes no
latch. -/
def Obligations.InvalidWordFaults : Prop :=
  ∀ (s : State) (p : Addr) (w : IWord) (e : DecodeError), Fetches s p w → decode (w &&& s.deex.iwSquashMask) = .error e →
    step s = .next { s.loadDeex w with
      status := .faulted { kind := .unimplementedOpcode, pc := p, iw := w &&& s.deex.iwSquashMask, access := none } }

/-! ## The step (70_reset_and_hazards.md) -/

/-- R23, R100, R270: a step of a running machine loads the latch with the masked word, sets the mask to NORMAL, and is
`exec` of the instruction decoded. -/
def Obligations.StepRunsDecodedInstruction : Prop :=
  ∀ (s : State) (p : Addr) (w : IWord) (i : Instr), Fetches s p w → decode (w &&& s.deex.iwSquashMask) = .ok i →
    step s = exec i { s with deex := {
      iw := w &&& s.deex.iwSquashMask
      iwSquashMask := 0xFFFFFFFF#32
      opcodeId := i.opcodeId
      currentPc := p } }

/-- R49, R273, R270 step 3: the word fetched at an aligned address of the program text is the four bytes there,
big-endian; a fetch from an address that is no multiple of 4, or outside the launch's program text, is refused. All of
it is the spec's decision D23. The spec names no reason for a refused fetch: that a misaligned address outside the text
is refused as fetchMisaligned is the model's choice (log entry 16). -/
def Obligations.FetchContract : Prop :=
  ∀ (s : State) (p : Addr), s.pc = some p →
    (p.toNat % 4 = 0 → s.inText p = true →
      s.fetchWord = .ok (bytesWord (s.byteAt p) (s.byteAt (p + 1)) (s.byteAt (p + 2)) (s.byteAt (p + 3)))) ∧
    (s.status = .running → s.atEnd = false → p.toNat % 4 ≠ 0 → step s = .refused (.fetchMisaligned p)) ∧
    (s.status = .running → s.atEnd = false → p.toNat % 4 = 0 → ∀ x, s.text = some x →
      ¬((p - x.base).toNat < x.size) → step s = .refused (.fetchOutsideText p))

/-- R274: the run has ended exactly when, at the start of a step, `pc` = TEXT_END, `npc` = TEXT_END + 4 and the mask
is NORMAL. The end of a run is the spec's decision D17; that ending is a step of its own is log entry 9. -/
def Obligations.RunEndsAtTextEnd : Prop :=
  ∀ (s : State) (p : Addr), s.status = .running → s.pc = some p →
    ((∃ x, s.text = some x ∧ p = x.base + BitVec.ofNat 64 x.size ∧
        s.fetchNextPc = x.base + BitVec.ofNat 64 x.size + 4 ∧ s.deex.iwSquashMask = 0xFFFFFFFF#32) ↔
      step s = .next { s with status := .ended })

/-- R233, R270: after a fault, and after the end of a run, the machine takes no step (log entries 6 and 9). -/
def Obligations.StoppedMachineTakesNoStep : Prop :=
  ∀ (s : State) (f : FaultInfo),
    (s.status = .faulted f → step s = .fault (.afterFault f)) ∧ (s.status = .ended → step s = .fault .afterEnd)

/-- R281: the slot of a likely branch that was not taken does nothing, whatever word stands there: no register and no
byte changes, no fault, no request, and the mask is NORMAL again. -/
def Obligations.SquashedSlotDoesNothing : Prop :=
  ∀ (s : State) (p : Addr) (w : IWord), Fetches s p w → s.deex.iwSquashMask = 0x00000000#32 →
    ∃ t, step s = .next t ∧ SameRegs s t ∧ SameMemory s t ∧ t.status = .running ∧ t.exmem.req = none ∧
      t.deex.iw = 0#32 ∧ t.deex.opcodeId = .sll ∧ t.deex.iwSquashMask = 0xFFFFFFFF#32 ∧
      t.pc = some s.fetchNextPc ∧ t.fetchNextPc = s.fetchNextPc + 4

/-- R272: the instruction handled next is the one at `npc`; the one after it is at the address that this handler wrote
to FETCH.next_pc if it wrote one, and else sequential. -/
def Obligations.AddressRecurrence : Prop :=
  ∀ (s t : State), step s = .next t → t.status = .running →
    ∃ w o, s.prime.fetchWord = .ok w ∧
      dispatch (decodeId (s.atHandler w).deex.iw) (s.atHandler w).deex
        (s.readX (fieldRs (s.atHandler w).deex.iw)) (s.readX (fieldRt (s.atHandler w).deex.iw)) = .ok o ∧
      t.pc = some s.prime.fetchNextPc ∧ t.fetchNextPc = o.nextPc.getD (s.prime.fetchNextPc + 4)

/-- R173: a transfer to `T` at `p` followed by a transfer to `U` in its delay slot: the instructions handled are those
at `p`, `p + 4`, `T`, `U`. -/
def Obligations.TransferInDelaySlot : Prop :=
  ∀ (s t u v : State) (p T U : Addr) (w₁ w₂ : IWord) (o₁ o₂ : LatchWrites),
    Fetches s p w₁ → s.fetchNextPc = p + 4 → step s = .next t → t.atEnd = false → t.fetchWord = .ok w₂ →
    (s.atHandler w₁).handlerOutcome = .ok o₁ → o₁.nextPc = some T →
    (t.atHandler w₂).handlerOutcome = .ok o₂ → o₂.nextPc = some U →
    step t = .next u → u.status = .running → step u = .next v → v.status = .running →
    t.pc = some (p + 4) ∧ u.pc = some T ∧ v.pc = some U

/-- R285, R56 (the spec's decision D23): program text is immutable: no step changes a byte of it, or the text itself. -/
def Obligations.ProgramTextImmutable : Prop :=
  ∀ (s t : State), step s = .next t → t.text = s.text ∧ ∀ a, s.inText a = true → t.byteAt a = s.byteAt a

/-- Every step keeps the invariant: canonical memory, a legal squash mask, the opcode id of the word, well-formed
requests, a legal text. -/
def Obligations.StepKeepsInvariant : Prop :=
  ∀ (s t : State), s.Inv → step s = .next t → t.Inv

/-! ## Reset and the register files (10_state.md) -/

/-- The invariant holds after reset. -/
def Obligations.ResetMeetsInvariant : Prop := State.reset.Inv

/-- R32 to R34: the squash mask NORMAL, the Decode/Execute latch empty, the Execute/Memory latch the bubble,
FETCH.next_pc = RESET_PC, whatever that is; the first step fetches from there. All but the mask is the spec's decision
D18. -/
def Obligations.ResetLatches : Prop :=
  State.reset.deex.iwSquashMask = 0xFFFFFFFF#32 ∧ State.reset.deex.iw = 0#32 ∧ State.reset.deex.opcodeId = .sll ∧
  State.reset.exmem = { result := 0#64, dest := 0#6, req := none } ∧ State.reset.fetchNextPc = Config.resetPc ∧
  State.reset.fetchAddr = Config.resetPc

/-- R33, R270: with nothing fetched, the step handles the word at FETCH.next_pc, and the one after it is sequential; the
model's reading, log entry 8. -/
def Obligations.FirstFetchIsNextPc : Prop :=
  ∀ s : State, s.pc = none →
    step s = step { s with pc := some s.fetchNextPc, fetchNextPc := s.fetchNextPc + 4 }

/-- R19, R20: the write contract: the extended index names one general-purpose or one control register, 0 is discarded,
and every other register and everything else is unchanged; `x[0]` reads 0 in every state. -/
def Obligations.WriteContract : Prop :=
  ∀ (s : State) (d : Dest) (v : Value), RegsAfter s (s.writeDest d v) d v ∧
    { s.writeDest d v with x := s.x, c := s.c } = s ∧ s.writeDest 0#6 v = s ∧ s.readX 0#5 = 0#64

/-- R233: what the source's driver does with a recorded fault: the faulting instruction has committed nothing, what
was fetched behind it is flushed, and fetch goes to the fault vector (an open parameter, log entry 6). That the flush
leaves both latches empty, the mask NORMAL and nothing fetched, and drops a pending branch target, is the model's choice
(log entry 12). -/
def Obligations.DriverRedirectsToVector : Prop :=
  ∀ (s : State) (f : FaultInfo), s.status = .faulted f →
    SameRegs s s.driverRedirect ∧ SameMemory s s.driverRedirect ∧ s.driverRedirect.status = .running ∧
    s.driverRedirect.fetchAddr = Config.faultVector f.kind ∧ s.driverRedirect.pc = none ∧
    s.driverRedirect.fetchNextPc = Config.faultVector f.kind ∧ s.driverRedirect.exmem = bubble ∧
    s.driverRedirect.deex = emptyDeex ∧ s.driverRedirect.deex.iwSquashMask = 0xFFFFFFFF#32 ∧
    s.driverRedirect.text = s.text ∧ s.driverRedirect.held = s.held
end

