-- ==== Sys2Proof/Laws/Fields.lean ====
section
/-! SUPPORT. What the fields of an encoded word are, and the masks of the opcode table in terms of fields. -/

namespace Sys2Proof

section PackR
variable (op : BitVec 6) (rs rt rd : Reg) (sa : BitVec 5) (fn : BitVec 6)

@[simp] theorem fieldOp_packR : fieldOp (packR op rs rt rd sa fn) = op := by
  ext i hi; interval_cases i <;> simp [fieldOp, packR]

@[simp] theorem fieldRs_packR : fieldRs (packR op rs rt rd sa fn) = rs := by
  ext i hi; interval_cases i <;> simp [fieldRs, packR]

@[simp] theorem fieldRt_packR : fieldRt (packR op rs rt rd sa fn) = rt := by
  ext i hi; interval_cases i <;> simp [fieldRt, packR]

@[simp] theorem fieldRd_packR : fieldRd (packR op rs rt rd sa fn) = rd := by
  ext i hi; interval_cases i <;> simp [fieldRd, packR]

@[simp] theorem fieldSa_packR : fieldSa (packR op rs rt rd sa fn) = sa := by
  ext i hi; interval_cases i <;> simp [fieldSa, packR]

@[simp] theorem fieldFunct_packR : fieldFunct (packR op rs rt rd sa fn) = fn := by
  ext i hi; interval_cases i <;> simp [fieldFunct, packR]

end PackR

section PackI
variable (op : BitVec 6) (rs rt : Reg) (imm : Imm)

@[simp] theorem fieldOp_packI : fieldOp (packI op rs rt imm) = op := by
  ext i hi; interval_cases i <;> simp [fieldOp, packI]

@[simp] theorem fieldRs_packI : fieldRs (packI op rs rt imm) = rs := by
  ext i hi; interval_cases i <;> simp [fieldRs, packI]

@[simp] theorem fieldRt_packI : fieldRt (packI op rs rt imm) = rt := by
  ext i hi; interval_cases i <;> simp [fieldRt, packI]

@[simp] theorem fieldImm_packI : fieldImm (packI op rs rt imm) = imm := by
  ext i hi; interval_cases i <;> simp [fieldImm, packI]

end PackI

/-- A word is determined by its fields, in format R. -/
theorem packR_fields (w : IWord) :
    packR (fieldOp w) (fieldRs w) (fieldRt w) (fieldRd w) (fieldSa w) (fieldFunct w) = w := by
  ext i hi
  interval_cases i <;>
    simp [packR, fieldOp, fieldRs, fieldRt, fieldRd, fieldSa, fieldFunct, BitVec.getLsbD_eq_getElem]

/-- A word is determined by its fields, in format I. -/
theorem packI_fields (w : IWord) : packI (fieldOp w) (fieldRs w) (fieldRt w) (fieldImm w) = w := by
  ext i hi
  interval_cases i <;> simp [packI, fieldOp, fieldRs, fieldRt, fieldImm, BitVec.getLsbD_eq_getElem]

section And
variable (v w : IWord)

@[simp] theorem fieldOp_and : fieldOp (v &&& w) = fieldOp v &&& fieldOp w := by
  ext; simp [fieldOp]
@[simp] theorem fieldRs_and : fieldRs (v &&& w) = fieldRs v &&& fieldRs w := by
  ext; simp [fieldRs]
@[simp] theorem fieldRt_and : fieldRt (v &&& w) = fieldRt v &&& fieldRt w := by
  ext; simp [fieldRt]
@[simp] theorem fieldRd_and : fieldRd (v &&& w) = fieldRd v &&& fieldRd w := by
  ext; simp [fieldRd]
@[simp] theorem fieldSa_and : fieldSa (v &&& w) = fieldSa v &&& fieldSa w := by
  ext; simp [fieldSa]
@[simp] theorem fieldFunct_and : fieldFunct (v &&& w) = fieldFunct v &&& fieldFunct w := by
  ext; simp [fieldFunct]
@[simp] theorem fieldImm_and : fieldImm (v &&& w) = fieldImm v &&& fieldImm w := by
  ext; simp [fieldImm]

end And

/-- Laying a word out as bytes and reading it back gives the word (R43). -/
@[simp] theorem bytesWord_wordBytes (w : IWord) :
    bytesWord (w.extractLsb' 24 8) (w.extractLsb' 16 8) (w.extractLsb' 8 8) (w.extractLsb' 0 8) = w := by
  ext i hi
  interval_cases i <;> simp [bytesWord, BitVec.getLsbD_eq_getElem]

/-- The number that two bytes in address order make (R44). -/
theorem toNat_bytesHalf (b0 b1 : Byte) : (bytesHalf b0 b1).toNat = b0.toNat * 256 + b1.toNat := by
  have h0 := b0.isLt
  have h1 := b1.isLt
  have e : bytesHalf b0 b1 = b0.setWidth 16 <<< 8 + b1.setWidth 16 := by
    rw [BitVec.add_eq_or_of_and_eq_zero]
    · rfl
    · ext i hi; interval_cases i <;> simp
  rw [e]
  simp [Nat.shiftLeft_eq]
  omega

/-- The number that four bytes in address order make. -/
theorem toNat_bytesWord (b0 b1 b2 b3 : Byte) :
    (bytesWord b0 b1 b2 b3).toNat = b0.toNat * 16777216 + b1.toNat * 65536 + b2.toNat * 256 + b3.toNat := by
  have h0 := b0.isLt
  have h1 := b1.isLt
  have h2 := b2.isLt
  have h3 := b3.isLt
  have e : bytesWord b0 b1 b2 b3 =
      b0.setWidth 32 <<< 24 + b1.setWidth 32 <<< 16 + b2.setWidth 32 <<< 8 + b3.setWidth 32 := by
    rw [BitVec.add_eq_or_of_and_eq_zero (b0.setWidth 32 <<< 24), BitVec.add_eq_or_of_and_eq_zero _ (b2.setWidth 32 <<< 8),
      BitVec.add_eq_or_of_and_eq_zero _ (b3.setWidth 32)]
    · rfl
    all_goals ext i hi; interval_cases i <;> simp
  rw [e]
  simp [Nat.shiftLeft_eq]
  omega

/-- The opcode id of a word that decodes. -/
theorem decodeId_of_ok {w : IWord} {i : Instr} (h : decode w = .ok i) : decodeId w = i.opcodeId := by
  simp [decodeId, h]

/-- The opcode id of a word that does not. -/
theorem decodeId_of_error {w : IWord} {e : DecodeError} (h : decode w = .error e) : decodeId w = .invalid := by
  simp [decodeId, h]

end Sys2Proof
end

