-- ==== Sys2Proof/Laws/Memory.lean ====
section
/-! SUPPORT. Memory: reading after writing, for every list of cells, and the canonical form kept by every
operation. -/

namespace Sys2Proof.Machine

@[simp] theorem Memory.read_nil (a : Nat) : Memory.read [] a = Config.unlistedByte := rfl

theorem Memory.read_cons (k : Nat) (v : Byte) (m : Memory) (a : Nat) :
    Memory.read ((k, v) :: m) a = if k = a then v else m.read a := rfl

theorem Memory.read_erase (m : Memory) (a b : Nat) :
    (m.erase a).read b = if b = a then Config.unlistedByte else m.read b := by
  induction m with
  | nil => simp [Memory.erase]
  | cons c m ih =>
    obtain ⟨k, v⟩ := c
    unfold Memory.erase
    by_cases hk : k = a
    · rw [if_pos hk, ih, Memory.read_cons]
      by_cases hb : b = a
      · rw [if_pos hb, if_pos hb]
      · rw [if_neg hb, if_neg hb, if_neg (by omega)]
    · rw [if_neg hk, Memory.read_cons, Memory.read_cons, ih]
      by_cases hb : k = b
      · rw [if_pos hb, if_pos hb, if_neg (by omega)]
      · rw [if_neg hb, if_neg hb]

theorem Memory.read_insert (m : Memory) (a b : Nat) (v : Byte) :
    (m.insert a v).read b = if b = a then v else m.read b := by
  induction m with
  | nil => simp [Memory.insert, Memory.read_cons, eq_comm]
  | cons c m ih =>
    obtain ⟨k, w⟩ := c
    unfold Memory.insert
    split
    · simp [Memory.read_cons, eq_comm]
    · split
      · next h =>
        simp only [Memory.read_cons, h]
        by_cases hb : k = b
        · rw [if_pos hb, if_pos hb.symm]
        · rw [if_neg hb, if_neg hb, if_neg (by omega)]
      · by_cases hk : k = b
        · have : b ≠ a := by omega
          simp [Memory.read_cons, hk, this]
        · simp [Memory.read_cons, hk, ih]

/-- Reading after writing: the byte written there, every other byte as before. -/
theorem Memory.read_write (m : Memory) (a b : Nat) (v : Byte) :
    (m.write a v).read b = if b = a then v else m.read b := by
  unfold Memory.write
  split
  · next h => rw [Memory.read_erase, h]
  · exact Memory.read_insert m a b v

theorem Memory.wfFrom_cons {lo k : Nat} {v : Byte} {m : Memory} :
    Memory.wfFrom lo ((k, v) :: m) = true ↔
      lo ≤ k ∧ k < 2 ^ 64 ∧ v ≠ Config.unlistedByte ∧ m.wfFrom (k + 1) = true := by
  simp only [Memory.wfFrom, Bool.and_eq_true, decide_eq_true_eq, and_assoc]

/-- Below the first address of the canonical form nothing is listed. -/
theorem Memory.read_of_lt {lo a : Nat} {m : Memory} (hm : m.wfFrom lo = true) (h : a < lo) :
    m.read a = Config.unlistedByte := by
  induction m generalizing lo with
  | nil => rfl
  | cons c m ih =>
    obtain ⟨hk, -, -, hm⟩ := Memory.wfFrom_cons.1 hm
    rw [Memory.read_cons, if_neg (by omega), ih hm (by omega)]

theorem Memory.wfFrom_mono {lo lo' : Nat} {m : Memory} (h : lo' ≤ lo) (hm : m.wfFrom lo = true) :
    m.wfFrom lo' = true := by
  cases m with
  | nil => rfl
  | cons c m =>
    obtain ⟨hk, hr⟩ := Memory.wfFrom_cons.1 hm
    exact Memory.wfFrom_cons.2 ⟨by omega, hr⟩

theorem Memory.wfFrom_erase {lo a : Nat} {m : Memory} (hm : m.wfFrom lo = true) : (m.erase a).wfFrom lo = true := by
  induction m generalizing lo with
  | nil => rfl
  | cons c m ih =>
    obtain ⟨hk, hb, hv, hm⟩ := Memory.wfFrom_cons.1 hm
    unfold Memory.erase
    split
    · exact Memory.wfFrom_mono (by omega) (ih hm)
    · exact Memory.wfFrom_cons.2 ⟨hk, hb, hv, ih hm⟩

theorem Memory.wfFrom_insert {lo a : Nat} {v : Byte} {m : Memory} (hm : m.wfFrom lo = true) (ha : lo ≤ a)
    (hb : a < 2 ^ 64) (hv : v ≠ Config.unlistedByte) : (m.insert a v).wfFrom lo = true := by
  induction m generalizing lo with
  | nil => exact Memory.wfFrom_cons.2 ⟨ha, hb, hv, rfl⟩
  | cons c m ih =>
    obtain ⟨hk, hkb, hw, hm⟩ := Memory.wfFrom_cons.1 hm
    unfold Memory.insert
    split
    · exact Memory.wfFrom_cons.2 ⟨ha, hb, hv, Memory.wfFrom_cons.2 ⟨by omega, hkb, hw, hm⟩⟩
    · split
      · next h => exact Memory.wfFrom_cons.2 ⟨ha, hb, hv, h ▸ hm⟩
      · exact Memory.wfFrom_cons.2 ⟨hk, hkb, hw, ih hm (by omega)⟩

/-- A write keeps the canonical form. -/
theorem Memory.wf_write {m : Memory} {a : Nat} {v : Byte} (hm : m.wf = true) (ha : a < 2 ^ 64) :
    (m.write a v).wf = true := by
  unfold Memory.write
  split
  · exact Memory.wfFrom_erase hm
  · next h => exact Memory.wfFrom_insert hm (Nat.zero_le a) ha h

end Sys2Proof.Machine
end

