-- ==== Sys2Proof/Laws/Operands.lean ====
section
/-! SUPPORT. What the operand forms compute: the raw sum (R110), the bitwise selectors (R97, R121) and the lanes of an
aligned store (R46). -/

namespace Sys2Proof.Machine

@[simp] theorem rawSum_false (a b : Value) : rawSum a b false = a + b := by simp [rawSum, negate, selAddSub]

@[simp] theorem rawSum_true (a b : Value) : rawSum a b true = a - b := by
  have h : b ^^^ ones64 = ~~~b := by rw [BitVec.not_def, BitVec.xor_comm]; rfl
  simp only [rawSum, negate, selAddSub, if_true]
  rw [h, BitVec.not_eq_neg_add]
  bv_omega

theorem overflow_eq_true_iff (raw : Value) : overflow raw = true ↔ raw.getLsbD 32 ≠ raw.getLsbD 31 := by
  simp [overflow]

theorem overflow_eq_false_iff (raw : Value) : overflow raw = false ↔ raw.getLsbD 32 = raw.getLsbD 31 := by
  simp [overflow]

@[simp] theorem bitwise_and (a b : Value) : bitwise a b 0#2 = a &&& b := by
  simp [bitwise, selBitwise]; exact BitVec.and_allOnes

@[simp] theorem bitwise_or (a b : Value) : bitwise a b 1#2 = a ||| b := by
  have h : ∀ x : Value, x &&& ones64 = x := fun x => BitVec.and_allOnes
  simp only [bitwise, selBitwise, h]
  ext i hi
  simp
  cases a[i] <;> cases b[i] <;> rfl

@[simp] theorem bitwise_xor (a b : Value) : bitwise a b 2#2 = a ^^^ b := by
  simp [bitwise, selBitwise]; exact BitVec.and_allOnes

/-- An address is the base of its bus word plus its low two bits (R58). -/
theorem busWordBase_add (ea : Addr) : busWordBase ea + (ea.extractLsb' 0 2).setWidth 64 = ea := by
  have h : (ea.extractLsb' 0 2).setWidth 64 = ea &&& 3#64 := by
    ext i hi; interval_cases i <;> simp [BitVec.getLsbD_eq_getElem]
  unfold busWordBase
  rw [h, BitVec.add_eq_or_of_and_eq_zero]
  · ext i hi; simp; interval_cases i <;> simp
  · ext i hi; simp; interval_cases i <;> simp

/-- The lanes that the mask of an aligned store selects (R46): the low bytes of the value at the access's addresses,
most significant first. -/
theorem selectedLanes_of_aligned {size : AccessSize} {ea : Addr} (b : Value) (ha : aligned size ea = true) :
    selectedLanes ⟨ea, .write, size, writeWord size ea b, laneMask size ea⟩ =
      match size with
      | .byte => [(ea, b.extractLsb' 0 8)]
      | .half => [(ea, b.extractLsb' 8 8), (ea + 1, b.extractLsb' 0 8)]
      | .word => [(ea, b.extractLsb' 24 8), (ea + 1, b.extractLsb' 16 8), (ea + 2, b.extractLsb' 8 8),
          (ea + 3, b.extractLsb' 0 8)] := by
  obtain ⟨k, hk⟩ : ∃ k, ea.extractLsb' 0 2 = k := ⟨_, rfl⟩
  have hb := busWordBase_add ea
  have hn : ea.toNat % 4 = k.toNat := by rw [← hk]; simp
  rw [hk] at hb
  have hcase : k = 0#2 ∨ k = 1#2 ∨ k = 2#2 ∨ k = 3#2 := by clear hk hb hn; revert k; decide
  cases size <;> rcases hcase with rfl | rfl | rfl | rfl
  case half.inr.inl | half.inr.inr.inr | word.inr.inl | word.inr.inr.inl | word.inr.inr.inr =>
    exfalso; simp [aligned, AccessSize.bytes] at ha hn; omega
  all_goals
    simp only [selectedLanes, laneMask, writeWord, laneShift, hk]
    generalize busWordBase ea = W at hb
    subst hb
    simp [laneTop, laneByte, AccessSize.bytes, List.filter, BitVec.add_assoc]
    clear ha hn hk
  case byte.inl | byte.inr.inl | byte.inr.inr.inl | byte.inr.inr.inr =>
    ext i hi; interval_cases i <;> simp [low32]
  case half.inl | half.inr.inr.inl => constructor <;> (ext i hi; interval_cases i <;> simp [low32])
  case word.inl => refine ⟨?_, ?_, ?_, ?_⟩ <;> (ext i hi; interval_cases i <;> simp [low32])

/-- The addresses that an aligned store writes are those of the access. -/
theorem selectedLanes_addrs {size : AccessSize} {ea : Addr} (b : Value) (ha : aligned size ea = true) :
    (selectedLanes ⟨ea, .write, size, writeWord size ea b, laneMask size ea⟩).map (·.1) = accessAddrs ea size := by
  rw [selectedLanes_of_aligned b ha]
  cases size <;> rfl

end Sys2Proof.Machine
end

