-- ==== Sys2Proof/Laws/PerInstr.lean ====
section
/-! SUPPORT. A statement about every instruction as syntax, with one lemma per constructor: the encoding of a
well-formed instruction lies in the instruction's row of `spec/opcode_table.json`. -/

namespace Sys2Proof.Laws

/-- The masks of the opcode table, by fields. -/
theorem special_mask : 0xFC00003F#32 = packR 63#6 0#5 0#5 0#5 0#5 63#6 := by decide

theorem cop0_mask : 0xFFE00000#32 = packR 63#6 31#5 0#5 0#5 0#5 0#6 := by decide

theorem major_mask : 0xFC000000#32 = packI 63#6 0#5 0#5 0#16 := by decide

theorem regimm_mask : 0xFC1F0000#32 = packI 63#6 0#5 31#5 0#16 := by decide

theorem packR_and (op op' : BitVec 6) (rs rs' rt rt' rd rd' : Reg) (sa sa' : BitVec 5) (fn fn' : BitVec 6) :
    packR op rs rt rd sa fn &&& packR op' rs' rt' rd' sa' fn' =
      packR (op &&& op') (rs &&& rs') (rt &&& rt') (rd &&& rd') (sa &&& sa') (fn &&& fn') := by
  rw [← packR_fields (packR op rs rt rd sa fn &&& packR op' rs' rt' rd' sa' fn')]; simp

theorem packI_and (op op' : BitVec 6) (rs rs' rt rt' : Reg) (imm imm' : Imm) :
    packI op rs rt imm &&& packI op' rs' rt' imm' =
      packI (op &&& op') (rs &&& rs') (rt &&& rt') (imm &&& imm') := by
  rw [← packI_fields (packI op rs rt imm &&& packI op' rs' rt' imm')]; simp

/-- A mask of ones keeps a five-bit field. -/
theorem and_ones5 (x : BitVec 5) : x &&& 31#5 = x := BitVec.and_allOnes (x := x)

/-- A mask of ones keeps a six-bit field. -/
theorem and_ones6 (x : BitVec 6) : x &&& 63#6 = x := BitVec.and_allOnes (x := x)

/-- Under its row's mask a SPECIAL word keeps its major opcode and its function field. -/
theorem special_word (rs rt rd : Reg) (sa : BitVec 5) (fn : BitVec 6) :
    packR 0#6 rs rt rd sa fn &&& 0xFC00003F#32 = packR 0#6 0#5 0#5 0#5 0#5 fn := by
  simp [special_mask, packR_and, and_ones6]

/-- Under its row's mask a COP0 word keeps its major opcode and its operation field. -/
theorem cop0_word (rs rt rd : Reg) (sa : BitVec 5) (fn : BitVec 6) :
    packR 16#6 rs rt rd sa fn &&& 0xFFE00000#32 = packR 16#6 rs 0#5 0#5 0#5 0#6 := by
  simp [cop0_mask, packR_and, and_ones5]

/-- Under its row's mask an immediate-format word keeps its major opcode. -/
theorem major_word (op : BitVec 6) (rs rt : Reg) (imm : Imm) :
    packI op rs rt imm &&& 0xFC000000#32 = packI op 0#5 0#5 0#16 := by
  simp [major_mask, packI_and, and_ones6]

/-- Under its row's mask a REGIMM word keeps its major opcode and the operation in its `rt` field. -/
theorem regimm_word (rs rt : Reg) (imm : Imm) :
    packI 1#6 rs rt imm &&& 0xFC1F0000#32 = packI 1#6 0#5 rt 0#16 := by
  simp [regimm_mask, packI_and, and_ones5]

/-- A word whose masked value is the row's matches the row. -/
theorem matches_of_eq {r : TableRow} {w : IWord} (h : w &&& r.mask = r.value) : r.matches w = true :=
  beq_iff_eq.mpr h

/-- The encoding of the instruction, if it is well formed, matches the instruction's row. -/
def EncodedInItsRow.Statement (i : Instr) : Prop := i.WellFormed = true → i.row.matches (encode i) = true

theorem EncodedInItsRow.sll (rd rt : Reg) (sa : Nat) : EncodedInItsRow.Statement (.sll rd rt sa) := fun _ =>
  matches_of_eq (special_word _ _ _ _ _)

theorem EncodedInItsRow.srl (rd rt : Reg) (sa : Nat) : EncodedInItsRow.Statement (.srl rd rt sa) := fun _ =>
  matches_of_eq (special_word _ _ _ _ _)

theorem EncodedInItsRow.jr (rs : Reg) : EncodedInItsRow.Statement (.jr rs) := fun _ =>
  matches_of_eq (special_word _ _ _ _ _)

theorem EncodedInItsRow.jalr (rd rs : Reg) : EncodedInItsRow.Statement (.jalr rd rs) := fun _ =>
  matches_of_eq (special_word _ _ _ _ _)

theorem EncodedInItsRow.add (rd rs rt : Reg) : EncodedInItsRow.Statement (.add rd rs rt) := fun _ =>
  matches_of_eq (special_word _ _ _ _ _)

theorem EncodedInItsRow.addu (rd rs rt : Reg) : EncodedInItsRow.Statement (.addu rd rs rt) := fun _ =>
  matches_of_eq (special_word _ _ _ _ _)

theorem EncodedInItsRow.sub (rd rs rt : Reg) : EncodedInItsRow.Statement (.sub rd rs rt) := fun _ =>
  matches_of_eq (special_word _ _ _ _ _)

theorem EncodedInItsRow.subu (rd rs rt : Reg) : EncodedInItsRow.Statement (.subu rd rs rt) := fun _ =>
  matches_of_eq (special_word _ _ _ _ _)

theorem EncodedInItsRow.and (rd rs rt : Reg) : EncodedInItsRow.Statement (.and rd rs rt) := fun _ =>
  matches_of_eq (special_word _ _ _ _ _)

theorem EncodedInItsRow.or (rd rs rt : Reg) : EncodedInItsRow.Statement (.or rd rs rt) := fun _ =>
  matches_of_eq (special_word _ _ _ _ _)

theorem EncodedInItsRow.xor (rd rs rt : Reg) : EncodedInItsRow.Statement (.xor rd rs rt) := fun _ =>
  matches_of_eq (special_word _ _ _ _ _)

theorem EncodedInItsRow.bltz (rs : Reg) (imm : Imm) : EncodedInItsRow.Statement (.bltz rs imm) := fun _ =>
  matches_of_eq (regimm_word _ _ _)

theorem EncodedInItsRow.bgez (rs : Reg) (imm : Imm) : EncodedInItsRow.Statement (.bgez rs imm) := fun _ =>
  matches_of_eq (regimm_word _ _ _)

theorem EncodedInItsRow.bltzl (rs : Reg) (imm : Imm) : EncodedInItsRow.Statement (.bltzl rs imm) := fun _ =>
  matches_of_eq (regimm_word _ _ _)

theorem EncodedInItsRow.bgezl (rs : Reg) (imm : Imm) : EncodedInItsRow.Statement (.bgezl rs imm) := fun _ =>
  matches_of_eq (regimm_word _ _ _)

theorem EncodedInItsRow.bltzal (rs : Reg) (imm : Imm) : EncodedInItsRow.Statement (.bltzal rs imm) := fun _ =>
  matches_of_eq (regimm_word _ _ _)

theorem EncodedInItsRow.bgezal (rs : Reg) (imm : Imm) : EncodedInItsRow.Statement (.bgezal rs imm) := fun _ =>
  matches_of_eq (regimm_word _ _ _)

theorem EncodedInItsRow.bltzall (rs : Reg) (imm : Imm) : EncodedInItsRow.Statement (.bltzall rs imm) := fun _ =>
  matches_of_eq (regimm_word _ _ _)

theorem EncodedInItsRow.bgezall (rs : Reg) (imm : Imm) : EncodedInItsRow.Statement (.bgezall rs imm) := fun _ =>
  matches_of_eq (regimm_word _ _ _)

theorem EncodedInItsRow.beq (rs rt : Reg) (imm : Imm) : EncodedInItsRow.Statement (.beq rs rt imm) := fun _ =>
  matches_of_eq (major_word _ _ _ _)

theorem EncodedInItsRow.bne (rs rt : Reg) (imm : Imm) : EncodedInItsRow.Statement (.bne rs rt imm) := fun _ =>
  matches_of_eq (major_word _ _ _ _)

theorem EncodedInItsRow.blez (rs : Reg) (imm : Imm) : EncodedInItsRow.Statement (.blez rs imm) := fun _ =>
  matches_of_eq (major_word _ _ _ _)

theorem EncodedInItsRow.bgtz (rs : Reg) (imm : Imm) : EncodedInItsRow.Statement (.bgtz rs imm) := fun _ =>
  matches_of_eq (major_word _ _ _ _)

theorem EncodedInItsRow.addi (rt rs : Reg) (imm : Imm) : EncodedInItsRow.Statement (.addi rt rs imm) := fun _ =>
  matches_of_eq (major_word _ _ _ _)

theorem EncodedInItsRow.addiu (rt rs : Reg) (imm : Imm) : EncodedInItsRow.Statement (.addiu rt rs imm) := fun _ =>
  matches_of_eq (major_word _ _ _ _)

theorem EncodedInItsRow.andi (rt rs : Reg) (imm : Imm) : EncodedInItsRow.Statement (.andi rt rs imm) := fun _ =>
  matches_of_eq (major_word _ _ _ _)

theorem EncodedInItsRow.ori (rt rs : Reg) (imm : Imm) : EncodedInItsRow.Statement (.ori rt rs imm) := fun _ =>
  matches_of_eq (major_word _ _ _ _)

theorem EncodedInItsRow.xori (rt rs : Reg) (imm : Imm) : EncodedInItsRow.Statement (.xori rt rs imm) := fun _ =>
  matches_of_eq (major_word _ _ _ _)

theorem EncodedInItsRow.lui (rt : Reg) (imm : Imm) : EncodedInItsRow.Statement (.lui rt imm) := fun _ =>
  matches_of_eq (major_word _ _ _ _)

theorem EncodedInItsRow.beql (rs rt : Reg) (imm : Imm) : EncodedInItsRow.Statement (.beql rs rt imm) := fun _ =>
  matches_of_eq (major_word _ _ _ _)

theorem EncodedInItsRow.bnel (rs rt : Reg) (imm : Imm) : EncodedInItsRow.Statement (.bnel rs rt imm) := fun _ =>
  matches_of_eq (major_word _ _ _ _)

theorem EncodedInItsRow.blezl (rs : Reg) (imm : Imm) : EncodedInItsRow.Statement (.blezl rs imm) := fun _ =>
  matches_of_eq (major_word _ _ _ _)

theorem EncodedInItsRow.bgtzl (rs : Reg) (imm : Imm) : EncodedInItsRow.Statement (.bgtzl rs imm) := fun _ =>
  matches_of_eq (major_word _ _ _ _)

theorem EncodedInItsRow.lb (rt rs : Reg) (imm : Imm) : EncodedInItsRow.Statement (.lb rt rs imm) := fun _ =>
  matches_of_eq (major_word _ _ _ _)

theorem EncodedInItsRow.lh (rt rs : Reg) (imm : Imm) : EncodedInItsRow.Statement (.lh rt rs imm) := fun _ =>
  matches_of_eq (major_word _ _ _ _)

theorem EncodedInItsRow.lw (rt rs : Reg) (imm : Imm) : EncodedInItsRow.Statement (.lw rt rs imm) := fun _ =>
  matches_of_eq (major_word _ _ _ _)

theorem EncodedInItsRow.lbu (rt rs : Reg) (imm : Imm) : EncodedInItsRow.Statement (.lbu rt rs imm) := fun _ =>
  matches_of_eq (major_word _ _ _ _)

theorem EncodedInItsRow.lhu (rt rs : Reg) (imm : Imm) : EncodedInItsRow.Statement (.lhu rt rs imm) := fun _ =>
  matches_of_eq (major_word _ _ _ _)

theorem EncodedInItsRow.lwu (rt rs : Reg) (imm : Imm) : EncodedInItsRow.Statement (.lwu rt rs imm) := fun _ =>
  matches_of_eq (major_word _ _ _ _)

theorem EncodedInItsRow.sb (rt rs : Reg) (imm : Imm) : EncodedInItsRow.Statement (.sb rt rs imm) := fun _ =>
  matches_of_eq (major_word _ _ _ _)

theorem EncodedInItsRow.sh (rt rs : Reg) (imm : Imm) : EncodedInItsRow.Statement (.sh rt rs imm) := fun _ =>
  matches_of_eq (major_word _ _ _ _)

theorem EncodedInItsRow.sw (rt rs : Reg) (imm : Imm) : EncodedInItsRow.Statement (.sw rt rs imm) := fun _ =>
  matches_of_eq (major_word _ _ _ _)

theorem EncodedInItsRow.mtc0 (rt rd : Reg) : EncodedInItsRow.Statement (.mtc0 rt rd) := fun _ =>
  matches_of_eq (cop0_word _ _ _ _ _)

end Sys2Proof.Laws
end

