-- ==== Sys2Proof/Laws/State.lean ====
section
/-! SUPPORT. One lemma per field for each update of the state, all true by definition, so that no later proof unfolds a
record update; and what the updates that test something leave alone. -/

namespace Sys2Proof.Machine

@[simp] theorem State.writeC_pc (s : State) (r : Reg) (v : Value) : (s.writeC r v).pc = s.pc := rfl
@[simp] theorem State.writeC_fetchNextPc (s : State) (r : Reg) (v : Value) : (s.writeC r v).fetchNextPc = s.fetchNextPc := rfl
@[simp] theorem State.writeC_deex (s : State) (r : Reg) (v : Value) : (s.writeC r v).deex = s.deex := rfl
@[simp] theorem State.writeC_exmem (s : State) (r : Reg) (v : Value) : (s.writeC r v).exmem = s.exmem := rfl
@[simp] theorem State.writeC_x (s : State) (r : Reg) (v : Value) : (s.writeC r v).x = s.x := rfl
@[simp] theorem State.writeC_c (s : State) (r : Reg) (v : Value) : (s.writeC r v).c = s.c.set r.toNat v := rfl
@[simp] theorem State.writeC_mem (s : State) (r : Reg) (v : Value) : (s.writeC r v).mem = s.mem := rfl
@[simp] theorem State.writeC_held (s : State) (r : Reg) (v : Value) : (s.writeC r v).held = s.held := rfl
@[simp] theorem State.writeC_text (s : State) (r : Reg) (v : Value) : (s.writeC r v).text = s.text := rfl
@[simp] theorem State.writeC_status (s : State) (r : Reg) (v : Value) : (s.writeC r v).status = s.status := rfl

@[simp] theorem State.setByte_pc (s : State) (a : Addr) (b : Byte) : (s.setByte a b).pc = s.pc := rfl
@[simp] theorem State.setByte_fetchNextPc (s : State) (a : Addr) (b : Byte) : (s.setByte a b).fetchNextPc = s.fetchNextPc := rfl
@[simp] theorem State.setByte_deex (s : State) (a : Addr) (b : Byte) : (s.setByte a b).deex = s.deex := rfl
@[simp] theorem State.setByte_exmem (s : State) (a : Addr) (b : Byte) : (s.setByte a b).exmem = s.exmem := rfl
@[simp] theorem State.setByte_x (s : State) (a : Addr) (b : Byte) : (s.setByte a b).x = s.x := rfl
@[simp] theorem State.setByte_c (s : State) (a : Addr) (b : Byte) : (s.setByte a b).c = s.c := rfl
@[simp] theorem State.setByte_mem (s : State) (a : Addr) (b : Byte) : (s.setByte a b).mem = Memory.write s.mem a.toNat b := rfl
@[simp] theorem State.setByte_held (s : State) (a : Addr) (b : Byte) : (s.setByte a b).held = s.held := rfl
@[simp] theorem State.setByte_text (s : State) (a : Addr) (b : Byte) : (s.setByte a b).text = s.text := rfl
@[simp] theorem State.setByte_status (s : State) (a : Addr) (b : Byte) : (s.setByte a b).status = s.status := rfl

@[simp] theorem State.retire_pc (s : State) (w : LatchWrites) : (s.retire w).pc = some s.fetchNextPc := rfl
@[simp] theorem State.retire_fetchNextPc (s : State) (w : LatchWrites) : (s.retire w).fetchNextPc = w.nextPc.getD (s.fetchNextPc + 4) := rfl
@[simp] theorem State.retire_deex (s : State) (w : LatchWrites) : (s.retire w).deex = { s.deex with iwSquashMask := w.squashMask.getD s.deex.iwSquashMask } := rfl
@[simp] theorem State.retire_exmem (s : State) (w : LatchWrites) : (s.retire w).exmem = ⟨w.result, w.dest, w.req⟩ := rfl
@[simp] theorem State.retire_x (s : State) (w : LatchWrites) : (s.retire w).x = s.x := rfl
@[simp] theorem State.retire_c (s : State) (w : LatchWrites) : (s.retire w).c = s.c := rfl
@[simp] theorem State.retire_mem (s : State) (w : LatchWrites) : (s.retire w).mem = s.mem := rfl
@[simp] theorem State.retire_held (s : State) (w : LatchWrites) : (s.retire w).held = s.held := rfl
@[simp] theorem State.retire_text (s : State) (w : LatchWrites) : (s.retire w).text = s.text := rfl
@[simp] theorem State.retire_status (s : State) (w : LatchWrites) : (s.retire w).status = s.status := rfl

@[simp] theorem State.takeFault_pc (s : State) (f : FaultInfo) : (s.takeFault f).pc = s.pc := rfl
@[simp] theorem State.takeFault_fetchNextPc (s : State) (f : FaultInfo) : (s.takeFault f).fetchNextPc = s.fetchNextPc := rfl
@[simp] theorem State.takeFault_deex (s : State) (f : FaultInfo) : (s.takeFault f).deex = s.deex := rfl
@[simp] theorem State.takeFault_exmem (s : State) (f : FaultInfo) : (s.takeFault f).exmem = s.exmem := rfl
@[simp] theorem State.takeFault_x (s : State) (f : FaultInfo) : (s.takeFault f).x = s.x := rfl
@[simp] theorem State.takeFault_c (s : State) (f : FaultInfo) : (s.takeFault f).c = s.c := rfl
@[simp] theorem State.takeFault_mem (s : State) (f : FaultInfo) : (s.takeFault f).mem = s.mem := rfl
@[simp] theorem State.takeFault_held (s : State) (f : FaultInfo) : (s.takeFault f).held = s.held := rfl
@[simp] theorem State.takeFault_text (s : State) (f : FaultInfo) : (s.takeFault f).text = s.text := rfl
@[simp] theorem State.takeFault_status (s : State) (f : FaultInfo) : (s.takeFault f).status = .faulted f := rfl

@[simp] theorem State.endRun_pc (s : State) : (s.endRun).pc = s.pc := rfl
@[simp] theorem State.endRun_fetchNextPc (s : State) : (s.endRun).fetchNextPc = s.fetchNextPc := rfl
@[simp] theorem State.endRun_deex (s : State) : (s.endRun).deex = s.deex := rfl
@[simp] theorem State.endRun_exmem (s : State) : (s.endRun).exmem = s.exmem := rfl
@[simp] theorem State.endRun_x (s : State) : (s.endRun).x = s.x := rfl
@[simp] theorem State.endRun_c (s : State) : (s.endRun).c = s.c := rfl
@[simp] theorem State.endRun_mem (s : State) : (s.endRun).mem = s.mem := rfl
@[simp] theorem State.endRun_held (s : State) : (s.endRun).held = s.held := rfl
@[simp] theorem State.endRun_text (s : State) : (s.endRun).text = s.text := rfl
@[simp] theorem State.endRun_status (s : State) : (s.endRun).status = .ended := rfl

@[simp] theorem State.loadDeex_pc (s : State) (w : IWord) : (s.loadDeex w).pc = s.pc := rfl
@[simp] theorem State.loadDeex_fetchNextPc (s : State) (w : IWord) : (s.loadDeex w).fetchNextPc = s.fetchNextPc := rfl
@[simp] theorem State.loadDeex_deex (s : State) (w : IWord) : (s.loadDeex w).deex = ⟨w &&& s.deex.iwSquashMask, maskNormal, decodeId (w &&& s.deex.iwSquashMask), s.fetchAddr⟩ := rfl
@[simp] theorem State.loadDeex_exmem (s : State) (w : IWord) : (s.loadDeex w).exmem = s.exmem := rfl
@[simp] theorem State.loadDeex_x (s : State) (w : IWord) : (s.loadDeex w).x = s.x := rfl
@[simp] theorem State.loadDeex_c (s : State) (w : IWord) : (s.loadDeex w).c = s.c := rfl
@[simp] theorem State.loadDeex_mem (s : State) (w : IWord) : (s.loadDeex w).mem = s.mem := rfl
@[simp] theorem State.loadDeex_held (s : State) (w : IWord) : (s.loadDeex w).held = s.held := rfl
@[simp] theorem State.loadDeex_text (s : State) (w : IWord) : (s.loadDeex w).text = s.text := rfl
@[simp] theorem State.loadDeex_status (s : State) (w : IWord) : (s.loadDeex w).status = s.status := rfl

@[simp] theorem State.writeX_pc (s : State) (r : Reg) (v : Value) : (s.writeX r v).pc = s.pc := by
  unfold State.writeX; split <;> rfl
@[simp] theorem State.writeX_fetchNextPc (s : State) (r : Reg) (v : Value) : (s.writeX r v).fetchNextPc = s.fetchNextPc := by
  unfold State.writeX; split <;> rfl
@[simp] theorem State.writeX_deex (s : State) (r : Reg) (v : Value) : (s.writeX r v).deex = s.deex := by
  unfold State.writeX; split <;> rfl
@[simp] theorem State.writeX_exmem (s : State) (r : Reg) (v : Value) : (s.writeX r v).exmem = s.exmem := by
  unfold State.writeX; split <;> rfl
@[simp] theorem State.writeX_c (s : State) (r : Reg) (v : Value) : (s.writeX r v).c = s.c := by
  unfold State.writeX; split <;> rfl
@[simp] theorem State.writeX_mem (s : State) (r : Reg) (v : Value) : (s.writeX r v).mem = s.mem := by
  unfold State.writeX; split <;> rfl
@[simp] theorem State.writeX_held (s : State) (r : Reg) (v : Value) : (s.writeX r v).held = s.held := by
  unfold State.writeX; split <;> rfl
@[simp] theorem State.writeX_text (s : State) (r : Reg) (v : Value) : (s.writeX r v).text = s.text := by
  unfold State.writeX; split <;> rfl
@[simp] theorem State.writeX_status (s : State) (r : Reg) (v : Value) : (s.writeX r v).status = s.status := by
  unfold State.writeX; split <;> rfl

@[simp] theorem State.writeDest_pc (s : State) (d : Dest) (v : Value) : (s.writeDest d v).pc = s.pc := by
  unfold State.writeDest; split <;> simp
@[simp] theorem State.writeDest_fetchNextPc (s : State) (d : Dest) (v : Value) : (s.writeDest d v).fetchNextPc = s.fetchNextPc := by
  unfold State.writeDest; split <;> simp
@[simp] theorem State.writeDest_deex (s : State) (d : Dest) (v : Value) : (s.writeDest d v).deex = s.deex := by
  unfold State.writeDest; split <;> simp
@[simp] theorem State.writeDest_exmem (s : State) (d : Dest) (v : Value) : (s.writeDest d v).exmem = s.exmem := by
  unfold State.writeDest; split <;> simp
@[simp] theorem State.writeDest_mem (s : State) (d : Dest) (v : Value) : (s.writeDest d v).mem = s.mem := by
  unfold State.writeDest; split <;> simp
@[simp] theorem State.writeDest_held (s : State) (d : Dest) (v : Value) : (s.writeDest d v).held = s.held := by
  unfold State.writeDest; split <;> simp
@[simp] theorem State.writeDest_text (s : State) (d : Dest) (v : Value) : (s.writeDest d v).text = s.text := by
  unfold State.writeDest; split <;> simp
@[simp] theorem State.writeDest_status (s : State) (d : Dest) (v : Value) : (s.writeDest d v).status = s.status := by
  unfold State.writeDest; split <;> simp

@[simp] theorem State.prime_deex (s : State) : s.prime.deex = s.deex := by
  unfold State.prime; split <;> rfl
@[simp] theorem State.prime_exmem (s : State) : s.prime.exmem = s.exmem := by
  unfold State.prime; split <;> rfl
@[simp] theorem State.prime_x (s : State) : s.prime.x = s.x := by
  unfold State.prime; split <;> rfl
@[simp] theorem State.prime_c (s : State) : s.prime.c = s.c := by
  unfold State.prime; split <;> rfl
@[simp] theorem State.prime_mem (s : State) : s.prime.mem = s.mem := by
  unfold State.prime; split <;> rfl
@[simp] theorem State.prime_held (s : State) : s.prime.held = s.held := by
  unfold State.prime; split <;> rfl
@[simp] theorem State.prime_text (s : State) : s.prime.text = s.text := by
  unfold State.prime; split <;> rfl
@[simp] theorem State.prime_status (s : State) : s.prime.status = s.status := by
  unfold State.prime; split <;> rfl

/-- With a word fetched, priming changes nothing (R33). -/
theorem State.prime_of_some {s : State} {p : Addr} (h : s.pc = some p) : s.prime = s := by
  unfold State.prime; rw [h]

/-- After priming, a word is fetched, at the same address. -/
@[simp] theorem State.prime_pc (s : State) : s.prime.pc = some s.fetchAddr := by
  unfold State.prime State.fetchAddr; split <;> simp_all

@[simp] theorem State.prime_fetchAddr (s : State) : s.prime.fetchAddr = s.fetchAddr := by
  rw [State.fetchAddr, State.prime_pc, Option.getD_some]

theorem State.fetchAddr_of_some {s : State} {p : Addr} (h : s.pc = some p) : s.fetchAddr = p := by
  rw [State.fetchAddr, h, Option.getD_some]

@[simp] theorem State.setBytes_nil (s : State) : s.setBytes [] = s := rfl

@[simp] theorem State.setBytes_cons (s : State) (a : Addr) (b : Byte) (l : List (Addr × Byte)) :
    s.setBytes ((a, b) :: l) = (s.setByte a b).setBytes l := rfl

@[simp] theorem State.setBytes_pc (s : State) (l : List (Addr × Byte)) : (s.setBytes l).pc = s.pc := by
  induction l generalizing s with
  | nil => rfl
  | cons c l ih => exact ih (s.setByte c.1 c.2)
@[simp] theorem State.setBytes_fetchNextPc (s : State) (l : List (Addr × Byte)) : (s.setBytes l).fetchNextPc = s.fetchNextPc := by
  induction l generalizing s with
  | nil => rfl
  | cons c l ih => exact ih (s.setByte c.1 c.2)
@[simp] theorem State.setBytes_deex (s : State) (l : List (Addr × Byte)) : (s.setBytes l).deex = s.deex := by
  induction l generalizing s with
  | nil => rfl
  | cons c l ih => exact ih (s.setByte c.1 c.2)
@[simp] theorem State.setBytes_exmem (s : State) (l : List (Addr × Byte)) : (s.setBytes l).exmem = s.exmem := by
  induction l generalizing s with
  | nil => rfl
  | cons c l ih => exact ih (s.setByte c.1 c.2)
@[simp] theorem State.setBytes_x (s : State) (l : List (Addr × Byte)) : (s.setBytes l).x = s.x := by
  induction l generalizing s with
  | nil => rfl
  | cons c l ih => exact ih (s.setByte c.1 c.2)
@[simp] theorem State.setBytes_c (s : State) (l : List (Addr × Byte)) : (s.setBytes l).c = s.c := by
  induction l generalizing s with
  | nil => rfl
  | cons c l ih => exact ih (s.setByte c.1 c.2)
@[simp] theorem State.setBytes_held (s : State) (l : List (Addr × Byte)) : (s.setBytes l).held = s.held := by
  induction l generalizing s with
  | nil => rfl
  | cons c l ih => exact ih (s.setByte c.1 c.2)
@[simp] theorem State.setBytes_text (s : State) (l : List (Addr × Byte)) : (s.setBytes l).text = s.text := by
  induction l generalizing s with
  | nil => rfl
  | cons c l ih => exact ih (s.setByte c.1 c.2)
@[simp] theorem State.setBytes_status (s : State) (l : List (Addr × Byte)) : (s.setBytes l).status = s.status := by
  induction l generalizing s with
  | nil => rfl
  | cons c l ih => exact ih (s.setByte c.1 c.2)

end Sys2Proof.Machine
end

