-- ==== Sys2Proof/Laws/Registers.lean ====
section
/-! SUPPORT. What reading a register or a byte gives after each operation; the register write contract (R19). -/

namespace Sys2Proof.Machine

/-! ## Registers -/

@[simp] theorem State.readX_zero (s : State) : s.readX 0#5 = 0#64 := by simp [State.readX]

/-- Reading depends on the register files alone. -/
theorem State.readX_congr {s t : State} (h : t.x = s.x) (r : Reg) : t.readX r = s.readX r := by
  simp [State.readX, h]

theorem State.readC_congr {s t : State} (h : t.c = s.c) (r : Reg) : t.readC r = s.readC r := by
  simp [State.readC, h]

theorem State.readX_writeX (s : State) (r q : Reg) (v : Value) :
    (s.writeX r v).readX q = if q ≠ 0#5 ∧ q = r then v else s.readX q := by
  unfold State.readX State.writeX
  by_cases hq : q = 0#5
  · simp [hq]
  · by_cases hr : r = 0#5
    · have h : q ≠ r := fun e => hq (e.trans hr)
      rw [if_neg hq, if_pos hr, if_neg hq, if_neg (fun e => h e.2)]
    · rw [if_neg hq, if_neg hr, if_neg hq]
      by_cases h : q = r
      · subst h; simp [hr]
      · have : r.toNat ≠ q.toNat := fun e => h (BitVec.eq_of_toNat_eq e.symm)
        simp [h, this]

theorem State.readC_writeC (s : State) (r q : Reg) (v : Value) :
    (s.writeC r v).readC q = if q = r then v else s.readC q := by
  unfold State.readC
  by_cases h : q = r
  · subst h; simp
  · have : r.toNat ≠ q.toNat := fun e => h (BitVec.eq_of_toNat_eq e.symm)
    simp [h, this]

/-- The two halves of the extended index space (R19). -/
theorem gprDest_eq_iff (d : Dest) (r : Reg) : d = gprDest r ↔ d.getLsbD 5 = false ∧ d.setWidth 5 = r := by
  unfold gprDest; revert d r; decide

/-- The index of a general-purpose register is below 32. -/
@[simp] theorem gprDest_getLsbD_five (r : Reg) : (gprDest r).getLsbD 5 = false := by unfold gprDest; revert r; decide

theorem crDest_eq_iff (d : Dest) (r : Reg) : d = crDest r ↔ d.getLsbD 5 = true ∧ d.setWidth 5 = r := by
  unfold crDest; revert d r; decide

/-- The write contract (R19). -/
theorem State.regsAfter_writeDest (s : State) (d : Dest) (v : Value) : RegsAfter s (s.writeDest d v) d v := by
  unfold State.writeDest
  by_cases h : d.getLsbD 5 = true
  · rw [if_pos h]
    constructor
    · intro r
      rw [if_neg, State.readX_congr (State.writeC_x s _ v)]
      rintro ⟨-, hd⟩
      exact Bool.false_ne_true (((gprDest_eq_iff d r).1 hd).1.symm.trans h)
    · intro r
      rw [State.readC_writeC]
      exact if_congr ⟨fun e => (crDest_eq_iff d r).2 ⟨h, e.symm⟩, fun e => ((crDest_eq_iff d r).1 e).2.symm⟩ rfl rfl
  · have h' : d.getLsbD 5 = false := by simpa using h
    rw [if_neg h]
    constructor
    · intro r
      rw [State.readX_writeX]
      exact if_congr (and_congr_right fun _ =>
        ⟨fun e => (gprDest_eq_iff d r).2 ⟨h', e.symm⟩, fun e => ((gprDest_eq_iff d r).1 e).2.symm⟩) rfl rfl
    · intro r
      rw [if_neg, State.readC_congr (State.writeX_c s _ v)]
      exact fun hd => h ((crDest_eq_iff d r).1 hd).1

/-- Retiring an instruction writes no register. -/
@[simp] theorem State.readX_retire (s : State) (w : LatchWrites) (r : Reg) : (s.retire w).readX r = s.readX r := rfl

@[simp] theorem State.readC_retire (s : State) (w : LatchWrites) (r : Reg) : (s.retire w).readC r = s.readC r := rfl

@[simp] theorem State.regsAfter_retire (s t : State) (w : LatchWrites) (d : Dest) (v : Value) :
    RegsAfter s (t.retire w) d v ↔ RegsAfter s t d v := Iff.rfl

/-! ## Bytes -/

/-- A byte depends on memory alone. -/
theorem State.byteAt_congr {s t : State} (h : t.mem = s.mem) (a : Addr) : t.byteAt a = s.byteAt a := by
  simp [State.byteAt, h]

/-- Neither a register write nor retiring writes a byte. -/
@[simp] theorem State.byteAt_retire (s : State) (w : LatchWrites) (a : Addr) :
    (s.retire w).byteAt a = s.byteAt a := rfl

@[simp] theorem State.byteAt_writeDest (s : State) (d : Dest) (v : Value) (a : Addr) :
    (s.writeDest d v).byteAt a = s.byteAt a := State.byteAt_congr (State.writeDest_mem s d v) a

theorem State.byteAt_setByte (s : State) (a b : Addr) (v : Byte) :
    (s.setByte a v).byteAt b = if b = a then v else s.byteAt b := by
  unfold State.byteAt
  rw [State.setByte_mem, Memory.read_write]
  by_cases h : b = a
  · simp [h]
  · have : b.toNat ≠ a.toNat := fun e => h (BitVec.eq_of_toNat_eq e)
    simp [h, this]

/-- A byte that the list does not write is as before. -/
theorem State.byteAt_setBytes_of_not_mem (s : State) (l : List (Addr × Byte)) (a : Addr)
    (h : ∀ c ∈ l, c.1 ≠ a) : (s.setBytes l).byteAt a = s.byteAt a := by
  induction l generalizing s with
  | nil => rfl
  | cons c l ih =>
    obtain ⟨k, v⟩ := c
    rw [State.setBytes_cons, ih _ fun c hc => h c (List.mem_cons_of_mem _ hc), State.byteAt_setByte,
      if_neg (Ne.symm (h (k, v) List.mem_cons_self))]

/-- Every operation that writes memory keeps the canonical form. -/
theorem State.wf_setByte {s : State} (a : Addr) (b : Byte) (h : s.mem.wf = true) : (s.setByte a b).mem.wf = true :=
  Memory.wf_write h (BitVec.isLt a)

theorem State.wf_setBytes {s : State} (l : List (Addr × Byte)) (h : s.mem.wf = true) :
    (s.setBytes l).mem.wf = true := by
  induction l generalizing s with
  | nil => exact h
  | cons c l ih => exact ih (State.wf_setByte c.1 c.2 h)

theorem State.wf_memWrite {s : State} (a : Addr) (v : Value) (size : AccessSize) (h : s.mem.wf = true) :
    (s.memWrite a v size).mem.wf = true := by
  cases size <;> simp only [State.memWrite] <;> repeat apply State.wf_setByte
  all_goals exact h

theorem State.wf_setWords {s : State} (a : Addr) (l : List IWord) (h : s.mem.wf = true) :
    (s.setWords a l).mem.wf = true := by
  induction l generalizing s a with
  | nil => exact h
  | cons w l ih => exact ih (a + 4) (State.wf_memWrite a (w.setWidth 64) .word h)

theorem State.wf_launch {s : State} (entry base : Addr) (l : List IWord) (held : List Region) (h : s.mem.wf = true) :
    (s.launch entry base l held).mem.wf = true := State.wf_setWords base l h

theorem State.wf_withWordAtFetch {s : State} (w : IWord) (h : s.mem.wf = true) :
    (s.withWordAtFetch w).mem.wf = true := State.wf_memWrite s.fetchAddr (w.setWidth 64) .word h

/-- The memory after reset lists nothing. -/
theorem State.wf_reset : State.reset.mem.wf = true := rfl

end Sys2Proof.Machine
end

