-- ==== Sys2Proof/Laws/Step.lean ====
section
/-! SUPPORT. For each shared operation of a step, once, everything it can do: the commit, the end of an instruction,
the handler shapes, the step. Later proofs cite these and unfold none of them. -/

namespace Sys2Proof.Machine

/-! ## Commit and completion -/

/-- A commit that succeeds wrote a result, combined loaded data, or stored the selected lanes outside the text. -/
theorem State.commit_ok {s t : State} {w : LatchWrites} (h : s.commit w = .ok t) :
    (w.req = none ∧ t = s.writeDest w.dest w.result) ∨
    (∃ r, w.req = some r ∧ r.kind = .read ∧ s.firstAbsent (accessAddrs r.address r.size) = none ∧
      t = s.writeDest w.dest (loaded r.size (s.memRead r.address r.size) w.result)) ∨
    (∃ r, w.req = some r ∧ r.kind = .write ∧ s.firstInText ((selectedLanes r).map (·.1)) = none ∧
      s.firstAbsent ((selectedLanes r).map (·.1)) = none ∧ t = s.setBytes (selectedLanes r)) := by
  unfold State.commit at h
  split at h
  · next hr => cases h; exact .inl ⟨hr, rfl⟩
  · next r hr =>
    split at h
    · next hk =>
      unfold State.commitRead at h
      split at h
      · cases h
      · next ha => cases h; exact .inr (.inl ⟨r, hr, hk, ha, rfl⟩)
    · next hk =>
      unfold State.commitWrite at h
      split at h
      · cases h
      · next ht =>
        split at h
        · cases h
        · next ha => cases h; exact .inr (.inr ⟨r, hr, hk, ht, ha, rfl⟩)

/-- A commit that is refused was a read of an absent byte, or a write into the text, or one outside it to an absent
byte. -/
theorem State.commit_error {s : State} {w : LatchWrites} {e : Refusal} (h : s.commit w = .error e) :
    (∃ r a, w.req = some r ∧ r.kind = .read ∧ s.firstAbsent (accessAddrs r.address r.size) = some a ∧
      e = .addressAbsent a) ∨
    (∃ r a, w.req = some r ∧ r.kind = .write ∧ s.firstInText ((selectedLanes r).map (·.1)) = some a ∧
      e = .storeIntoText a) ∨
    (∃ r a, w.req = some r ∧ r.kind = .write ∧ s.firstInText ((selectedLanes r).map (·.1)) = none ∧
      s.firstAbsent ((selectedLanes r).map (·.1)) = some a ∧ e = .addressAbsent a) := by
  unfold State.commit at h
  split at h
  · cases h
  · next r hr =>
    split at h
    · next hk =>
      unfold State.commitRead at h
      split at h
      · next a ha => cases h; exact .inl ⟨r, a, hr, hk, ha, rfl⟩
      · cases h
    · next hk =>
      unfold State.commitWrite at h
      split at h
      · next a ha => cases h; exact .inr (.inl ⟨r, a, hr, hk, ha, rfl⟩)
      · next ht =>
        split at h
        · next a ha => cases h; exact .inr (.inr ⟨r, a, hr, hk, ht, ha, rfl⟩)
        · cases h

/-- A next state after a handler: the fault is recorded, or the commit succeeded and the instruction is retired. -/
theorem State.complete_next {s t : State} {o : HandlerOutcome} (h : s.complete o = .next t) :
    (∃ f, o = .fault f ∧ t = s.takeFault f) ∨
    (∃ w u, o = .ok w ∧ s.commit w = .ok u ∧ t = u.retire w) := by
  cases o with
  | fault f => cases h; exact .inl ⟨f, rfl, rfl⟩
  | ok w =>
    simp only [State.complete] at h
    split at h
    · next u hu => cases h; exact .inr ⟨w, u, rfl, hu, rfl⟩
    · cases h

/-- A handler outcome never makes the machine stop with a `Fault`. -/
theorem State.complete_ne_fault (s : State) (o : HandlerOutcome) (f : Fault) : s.complete o ≠ .fault f := by
  cases o with
  | fault f => exact nofun
  | ok w => simp only [State.complete]; split <;> exact nofun

@[simp] theorem State.complete_fault (s : State) (f : FaultInfo) : s.complete (.fault f) = .next (s.takeFault f) := rfl

/-- An outcome without a request always completes. -/
theorem State.complete_of_req_none (s : State) {w : LatchWrites} (h : w.req = none) :
    s.complete (.ok w) = .next ((s.writeDest w.dest w.result).retire w) := by
  simp [State.complete, State.commit, h]

/-- What a commit leaves alone. -/
theorem State.commit_frame {s t : State} {w : LatchWrites} (h : s.commit w = .ok t) :
    t.pc = s.pc ∧ t.fetchNextPc = s.fetchNextPc ∧ t.deex = s.deex ∧ t.held = s.held ∧ t.text = s.text ∧
      t.status = s.status := by
  obtain ⟨-, rfl⟩ | ⟨r, -, -, -, rfl⟩ | ⟨r, -, -, -, -, rfl⟩ := State.commit_ok h <;> simp

/-- Only a store changes memory; it keeps the canonical form. -/
theorem State.wf_commit {s t : State} {w : LatchWrites} (h : s.commit w = .ok t) (hm : s.mem.wf = true) :
    t.mem.wf = true := by
  obtain ⟨-, rfl⟩ | ⟨r, -, -, -, rfl⟩ | ⟨r, -, -, -, -, rfl⟩ := State.commit_ok h
  · simpa using hm
  · simpa using hm
  · exact State.wf_setBytes _ hm

/-! ## Handler shapes -/

/-- The add/subtract shape: the overflow fault, or the sign-extended low 32 bits of the raw sum. -/
theorem addSub_cases (e : DeexLatch) (a b : Value) (s trap : Bool) (d : Dest) :
    (trap = true ∧ overflow (rawSum a b s) = true ∧ addSub e a b s trap d = .fault (e.faultInfo .integerOverflow none)) ∨
    ((trap && overflow (rawSum a b s)) = false ∧ addSub e a b s trap d = resultOnly d (sext32 (rawSum a b s))) := by
  unfold addSub
  cases h : trap && overflow (rawSum a b s)
  · exact .inr ⟨rfl, if_neg Bool.false_ne_true⟩
  · rw [Bool.and_eq_true] at h
    exact .inl ⟨h.1, h.2, if_pos rfl⟩

/-- An aligned load posts its request. -/
theorem load_of_aligned {e : DeexLatch} {a : Value} {imm : Imm} {size : AccessSize}
    (h : aligned size (effectiveAddress a imm) = true) (z : Bool) (d : Dest) :
    load e a imm size z d =
      .ok ⟨selLoadSeed z, d, some ⟨effectiveAddress a imm, .read, size, 0#32, 0#32⟩, none, none⟩ := if_pos h

/-- A misaligned load faults. -/
theorem load_of_misaligned {e : DeexLatch} {a : Value} {imm : Imm} {size : AccessSize}
    (h : aligned size (effectiveAddress a imm) = false) (z : Bool) (d : Dest) :
    load e a imm size z d = .fault (e.faultInfo .unalignedAddress (some (effectiveAddress a imm, .read))) :=
  if_neg (h ▸ Bool.false_ne_true)

/-- An aligned store posts its request. -/
theorem store_of_aligned {e : DeexLatch} {a : Value} {imm : Imm} {size : AccessSize}
    (h : aligned size (effectiveAddress a imm) = true) (b : Value) :
    store e a b imm size =
      .ok ⟨0#64, 0#6, some ⟨effectiveAddress a imm, .write, size, writeWord size (effectiveAddress a imm) b,
        laneMask size (effectiveAddress a imm)⟩, none, none⟩ := if_pos h

/-- A misaligned store faults. -/
theorem store_of_misaligned {e : DeexLatch} {a : Value} {imm : Imm} {size : AccessSize}
    (h : aligned size (effectiveAddress a imm) = false) (b : Value) :
    store e a b imm size = .fault (e.faultInfo .unalignedAddress (some (effectiveAddress a imm, .write))) :=
  if_neg (h ▸ Bool.false_ne_true)

/-! ## The step -/

/-- Everything a step that answers a next state can be: the end of the run, or the handling of the word fetched. -/
theorem step_next {s t : State} (h : step s = .next t) :
    s.status = .running ∧
    ((s.prime.atEnd = true ∧ t = s.prime.endRun) ∨
     (s.prime.atEnd = false ∧ ∃ w, s.prime.fetchWord = .ok w ∧ handleLoaded (s.prime.loadDeex w) = .next t)) := by
  unfold step at h
  split at h
  · next hs =>
    refine ⟨hs, ?_⟩
    unfold stepRunning at h
    split at h
    · next he => cases h; exact .inl ⟨he, rfl⟩
    · next he =>
      split at h
      · next w hw => exact .inr ⟨by simpa using he, w, hw, h⟩
      · cases h
  · cases h
  · cases h

/-- The step of a running machine that has not ended and whose fetch succeeds. -/
theorem step_of_fetch {s : State} {w : IWord} (hs : s.status = .running) (he : s.prime.atEnd = false)
    (hw : s.prime.fetchWord = .ok w) : step s = handleLoaded (s.prime.loadDeex w) := by
  simp [step, stepRunning, hs, he, hw]

/-- The word in the latch is an instruction: it is executed. -/
theorem handleLoaded_of_ok {s : State} {i : Instr} (h : decode s.deex.iw = .ok i) : handleLoaded s = exec i s := by
  simp [handleLoaded, h]

/-- The word in the latch is none: INVALID's handler runs. -/
theorem handleLoaded_of_error {s : State} {e : DecodeError} (h : decode s.deex.iw = .error e) :
    handleLoaded s = execInvalid s := by
  simp [handleLoaded, h]

end Sys2Proof.Machine
end

