-- ==== Sys2Proof/Tests/Slice0.lean ====
section
/-! SUPPORT. Tests. Every expected value is from 95_test_vectors.md (the section is named) or worked out by hand from
the rule named; a word is written out from the encodings of 30_encoding.md. The witnesses at the end show, for each
statement of Certificates/Slice0/Obligations.lean that has hypotheses, operands and a state that meet all of them. -/

namespace Sys2Proof.Tests

open Sys2Proof Sys2Proof.Machine

/-! ## Well-formedness -/

/-- The shift amount has five bits: 32 is refused, 31 is not (30_encoding.md R61). -/
theorem test_wellFormed_sll : (Instr.sll 2 5 32).WellFormed = false ∧ (Instr.sll 2 5 31).WellFormed = true := by decide

theorem test_wellFormed_srl : (Instr.srl 2 5 32).WellFormed = false ∧ (Instr.srl 2 5 31).WellFormed = true := by decide

/-! ## Decoding: one word per constructor, each the word of the section named -/

/-- Section 2.1, 2.2. -/
theorem test_decode_arith :
    decode 0x00851020 = .ok (.add 2 4 5) ∧
    decode 0x00851021 = .ok (.addu 2 4 5) ∧
    decode 0x00851022 = .ok (.sub 2 4 5) ∧
    decode 0x00851023 = .ok (.subu 2 4 5) ∧
    decode 0x20080064 = .ok (.addi 8 0 0x0064) ∧
    decode 0x2482FFFC = .ok (.addiu 2 4 0xFFFC) := by
  decide

/-- Section 2.3, 2.4. -/
theorem test_decode_logic :
    decode 0x00851024 = .ok (.and 2 4 5) ∧
    decode 0x00851025 = .ok (.or 2 4 5) ∧
    decode 0x00851026 = .ok (.xor 2 4 5) ∧
    decode 0x3082FF00 = .ok (.andi 2 4 0xFF00) ∧
    decode 0x3482FF00 = .ok (.ori 2 4 0xFF00) ∧
    decode 0x3882FF00 = .ok (.xori 2 4 0xFF00) ∧
    decode 0x3C028000 = .ok (.lui 2 0x8000) := by
  decide

/-- Section 2.5. -/
theorem test_decode_shift :
    decode 0x000517C0 = .ok (.sll 2 5 31) ∧
    decode 0x00051102 = .ok (.srl 2 5 4) := by
  decide

/-- Section 2.6. -/
theorem test_decode_branch :
    decode 0x10850003 = .ok (.beq 4 5 3) ∧
    decode 0x14850003 = .ok (.bne 4 5 3) ∧
    decode 0x50850003 = .ok (.beql 4 5 3) ∧
    decode 0x54850003 = .ok (.bnel 4 5 3) ∧
    decode 0x18800003 = .ok (.blez 4 3) ∧
    decode 0x1C800003 = .ok (.bgtz 4 3) ∧
    decode 0x58800003 = .ok (.blezl 4 3) ∧
    decode 0x5C800003 = .ok (.bgtzl 4 3) := by
  decide

/-- Section 2.6. -/
theorem test_decode_regimm :
    decode 0x04800003 = .ok (.bltz 4 3) ∧
    decode 0x04810003 = .ok (.bgez 4 3) ∧
    decode 0x04820003 = .ok (.bltzl 4 3) ∧
    decode 0x04830003 = .ok (.bgezl 4 3) ∧
    decode 0x04900003 = .ok (.bltzal 4 3) ∧
    decode 0x04910003 = .ok (.bgezal 4 3) ∧
    decode 0x04920003 = .ok (.bltzall 4 3) ∧
    decode 0x04930003 = .ok (.bgezall 4 3) := by
  decide

/-- Section 2.7. -/
theorem test_decode_jump :
    decode 0x0100F809 = .ok (.jalr 31 8) ∧
    decode 0x03E00008 = .ok (.jr 31) := by
  decide

/-- Section 2.8. -/
theorem test_decode_load :
    decode 0x80820000 = .ok (.lb 2 4 0) ∧
    decode 0x90820003 = .ok (.lbu 2 4 3) ∧
    decode 0x84820002 = .ok (.lh 2 4 2) ∧
    decode 0x94820002 = .ok (.lhu 2 4 2) ∧
    decode 0x8C82FFFC = .ok (.lw 2 4 0xFFFC) ∧
    decode 0x9C820000 = .ok (.lwu 2 4 0) := by
  decide

/-- Section 2.9. -/
theorem test_decode_store :
    decode 0xA0850001 = .ok (.sb 5 4 1) ∧
    decode 0xA4850002 = .ok (.sh 5 4 2) ∧
    decode 0xAC85FFFC = .ok (.sw 5 4 0xFFFC) := by
  decide

/-- Section 2.10. -/
theorem test_decode_control :
    decode 0x40856000 = .ok (.mtc0 5 12) := by
  decide

theorem test_encode_arith :
    encode (.add 2 4 5) = 0x00851020 ∧
    encode (.addu 2 4 5) = 0x00851021 ∧
    encode (.sub 2 4 5) = 0x00851022 ∧
    encode (.subu 2 4 5) = 0x00851023 ∧
    encode (.addi 8 0 0x0064) = 0x20080064 ∧
    encode (.addiu 2 4 0xFFFC) = 0x2482FFFC := by
  decide

theorem test_encode_logic :
    encode (.and 2 4 5) = 0x00851024 ∧
    encode (.or 2 4 5) = 0x00851025 ∧
    encode (.xor 2 4 5) = 0x00851026 ∧
    encode (.andi 2 4 0xFF00) = 0x3082FF00 ∧
    encode (.ori 2 4 0xFF00) = 0x3482FF00 ∧
    encode (.xori 2 4 0xFF00) = 0x3882FF00 ∧
    encode (.lui 2 0x8000) = 0x3C028000 := by
  decide

theorem test_encode_shift :
    encode (.sll 2 5 31) = 0x000517C0 ∧
    encode (.srl 2 5 4) = 0x00051102 := by
  decide

theorem test_encode_branch :
    encode (.beq 4 5 3) = 0x10850003 ∧
    encode (.bne 4 5 3) = 0x14850003 ∧
    encode (.beql 4 5 3) = 0x50850003 ∧
    encode (.bnel 4 5 3) = 0x54850003 ∧
    encode (.blez 4 3) = 0x18800003 ∧
    encode (.bgtz 4 3) = 0x1C800003 ∧
    encode (.blezl 4 3) = 0x58800003 ∧
    encode (.bgtzl 4 3) = 0x5C800003 := by
  decide

theorem test_encode_regimm :
    encode (.bltz 4 3) = 0x04800003 ∧
    encode (.bgez 4 3) = 0x04810003 ∧
    encode (.bltzl 4 3) = 0x04820003 ∧
    encode (.bgezl 4 3) = 0x04830003 ∧
    encode (.bltzal 4 3) = 0x04900003 ∧
    encode (.bgezal 4 3) = 0x04910003 ∧
    encode (.bltzall 4 3) = 0x04920003 ∧
    encode (.bgezall 4 3) = 0x04930003 := by
  decide

theorem test_encode_jump :
    encode (.jalr 31 8) = 0x0100F809 ∧
    encode (.jr 31) = 0x03E00008 := by
  decide

theorem test_encode_load :
    encode (.lb 2 4 0) = 0x80820000 ∧
    encode (.lbu 2 4 3) = 0x90820003 ∧
    encode (.lh 2 4 2) = 0x84820002 ∧
    encode (.lhu 2 4 2) = 0x94820002 ∧
    encode (.lw 2 4 0xFFFC) = 0x8C82FFFC ∧
    encode (.lwu 2 4 0) = 0x9C820000 := by
  decide

theorem test_encode_store :
    encode (.sb 5 4 1) = 0xA0850001 ∧
    encode (.sh 5 4 2) = 0xA4850002 ∧
    encode (.sw 5 4 0xFFFC) = 0xAC85FFFC := by
  decide

theorem test_encode_control :
    encode (.mtc0 5 12) = 0x40856000 := by
  decide

/-- Words with unused fields set (section 2.12): they decode as if those were zero. -/
theorem test_decode_unused :
    decode 0x03FFFFC8 = .ok (.jr 31) ∧ decode 0x00851FE0 = .ok (.add 3 4 5) ∧ decode 0x3FE20001 = .ok (.lui 2 1) ∧
    decode 0x408567FF = .ok (.mtc0 5 12) ∧ decode 0x1C850003 = .ok (.bgtz 4 3) := by
  decide

/-- Words of no instruction in scope (section 2.12). -/
theorem test_decode_invalid :
    decode 0x0000000C = .error (.specialFunct 0x0C) ∧ decode 0x08000400 = .error (.majorOpcode 0x02) ∧
    decode 0x04880003 = .error (.regimmSub 0x08) ∧ decode 0x40056000 = .error (.cop0Sub 0x00) ∧
    decode 0x88820000 = .error (.majorOpcode 0x22) := by
  decide

/-- Fewer than four bytes are no instruction (R60); the first byte is the most significant (R43). -/
theorem test_decodeBytes :
    decodeBytes [0x00, 0x85, 0x10] = .error .truncated ∧
    decodeBytes [0x00, 0x85, 0x10, 0x20, 0xFF] = .ok (.add 2 4 5, [0xFF]) := by
  decide

theorem test_decodeTableWord :
    decodeTableWord 32 0x00851020 = some (.add 2 4 5) ∧ decodeTableWord 32 0x0000000C = none := by decide

/-! ## One step -/

/-- A machine about to handle the word at 0x1000, `$a0` and `$a1` holding `a` and `b`, and `$ra` -1. -/
def ready (w : IWord) (a b : Value) : State :=
  State.withFetchWord { State.reset with
    pc := some 0x1000#64
    fetchNextPc := 0x1004#64
    x := ((State.reset.x.set 4 a).set 5 b).set 31 ones64
    mem := [(0x2004, 0xDE#8), (0x2005, 0xAD#8), (0x2006, 0xBE#8), (0x2007, 0xEF#8)] } 32 w.toNat

/-- What a step left, read by `f`, if the machine is running. -/
def seen {α : Type} (f : State → α) : Host.Outcome State Fault Refusal → Option α
  | .next t => if t.status = .running then some (f t) else none
  | _ => none

/-- The register `r` after one step. -/
def reg (r : Reg) (w : IWord) (a b : Value) : Option Value := seen (fun t => t.readX r) (step (ready w a b))

/-- `FETCH.next_pc` and the squash mask after one step. -/
def flow (w : IWord) (a b : Value) : Option (Addr × IWord) :=
  seen (fun t => (t.fetchNextPc, t.deex.iwSquashMask)) (step (ready w a b))

/-- The fault one step recorded. -/
def fault (w : IWord) (a b : Value) : Option (FaultKind × Option (Addr × AccessKind)) :=
  match step (ready w a b) with
  | .next t =>
    match t.status with
    | .faulted f => some (f.kind, f.access)
    | _ => none
  | _ => none

/-- Section 2.1. -/
theorem test_add : reg 2 0x00851020 5 7 = some 0xC := by decide

/-- Section 2.1: the fault even when `rd` is 0. -/
theorem test_add_overflow : fault 0x00850020 0x7FFFFFFF 1 = some (.integerOverflow, none) := by decide

/-- Section 2.1. -/
theorem test_addu_wraps : reg 2 0x00851021 0x7FFFFFFF 1 = some 0xFFFFFFFF80000000 := by decide

/-- Section 2.1: bits above 31 of the operands do not reach the result. -/
theorem test_addu_high : reg 2 0x00851021 0x0000000123456789 1 = some 0x000000002345678A := by decide

/-- Section 2.1. -/
theorem test_sub : reg 2 0x00851022 0xFFFFFFFFFFFFFFFF 0xFFFFFFFF80000000 = some 0x7FFFFFFF := by decide

/-- Section 2.1. -/
theorem test_sub_overflow : fault 0x00851022 0 0xFFFFFFFF80000000 = some (.integerOverflow, none) := by decide

/-- Section 2.1. -/
theorem test_subu : reg 2 0x00851023 0xFFFFFFFF80000000 1 = some 0x7FFFFFFF := by decide

/-- Section 2.2. -/
theorem test_addi : reg 2 0x20828000 0x7FFF8000 0 = some 0x7FFF0000 := by decide

/-- Section 2.2. -/
theorem test_addi_overflow : fault 0x2082FFFF 0xFFFFFFFF80000000 0 = some (.integerOverflow, none) := by decide

/-- Section 2.2. -/
theorem test_addiu : reg 2 0x24827FFF 0x7FFFFFFF 0 = some 0xFFFFFFFF80007FFE := by decide

/-- Section 2.2: the value of `AddSub`; SUBI has no word. -/
theorem test_subi : addSub State.reset.deex 0x7FFF8000 (sext16 0x7FFF) true true 2 = resultOnly 2 0x7FFF0001 := by decide

/-- Section 2.2. -/
theorem test_subiu : addSub State.reset.deex 0x7FFF8000 (sext16 0x8000) true false 2 = resultOnly 2 0xFFFFFFFF80000000 := by decide

/-- Section 2.3. -/
theorem test_and : reg 2 0x00851024 0x123456789ABCDEF0 0x0FEDCBA987654321 = some 0x0224422882244220 := by decide

/-- Section 2.3. -/
theorem test_or : reg 2 0x00851025 0x123456789ABCDEF0 0x0FEDCBA987654321 = some 0x1FFDDFF99FFDDFF1 := by decide

/-- Section 2.3. -/
theorem test_xor : reg 2 0x00851026 0x123456789ABCDEF0 0x0FEDCBA987654321 = some 0x1DD99DD11DD99DD1 := by decide

/-- Section 2.3: the immediate is zero-extended. -/
theorem test_andi : reg 2 0x3082FFFF 0xFFFFFFFF12345678 0 = some 0x5678 := by decide

/-- Section 2.3. -/
theorem test_ori : reg 2 0x34828001 0xFFFFFFFF12345678 0 = some 0xFFFFFFFF1234D679 := by decide

/-- Section 2.3. -/
theorem test_xori : reg 2 0x3882FFFF 0xFFFFFFFF12345678 0 = some 0xFFFFFFFF1234A987 := by decide

/-- Section 2.4. -/
theorem test_lui : reg 2 0x3C028000 0 0 = some 0xFFFFFFFF80000000 := by decide

/-- Section 2.5. -/
theorem test_sll : reg 2 0x00051100 0 0x123456789ABCDEF0 = some 0xFFFFFFFFABCDEF00 := by decide

/-- Section 2.5: a shift by 0 sign-extends. -/
theorem test_sll_zero : reg 2 0x00051000 0 0xFFFFFFFF = some 0xFFFFFFFFFFFFFFFF := by decide

/-- Section 2.5: zeros enter. -/
theorem test_srl : reg 2 0x00051042 0 0xFFFFFFFF80000001 = some 0x40000000 := by decide

/-- Section 2.5. -/
theorem test_srl_zero : reg 2 0x00051002 0 0xFFFFFFFF80000000 = some 0xFFFFFFFF80000000 := by decide

/-- Section 2.6. -/
theorem test_beq : flow 0x10850003 7 7 = some (0x1010, 0xFFFFFFFF) := by decide

/-- Section 2.6. -/
theorem test_beq_high : flow 0x10850003 0x100000000 0 = some (0x1008, 0xFFFFFFFF) := by decide

/-- Section 2.6. -/
theorem test_bne : flow 0x14850003 7 8 = some (0x1010, 0xFFFFFFFF) := by decide

/-- Section 2.6. -/
theorem test_bne_not_taken : flow 0x14850003 7 7 = some (0x1008, 0xFFFFFFFF) := by decide

/-- Section 2.6. -/
theorem test_beql : flow 0x50850003 7 7 = some (0x1010, 0xFFFFFFFF) := by decide

/-- Section 2.6. -/
theorem test_beql_squash : flow 0x50850003 7 8 = some (0x1008, 0) := by decide

/-- Section 2.6. -/
theorem test_bnel : flow 0x54850003 7 8 = some (0x1010, 0xFFFFFFFF) := by decide

/-- Section 2.6. -/
theorem test_bnel_squash : flow 0x54850003 7 7 = some (0x1008, 0) := by decide

/-- Section 2.6. -/
theorem test_blez_zero : flow 0x18800003 0 0 = some (0x1010, 0xFFFFFFFF) := by decide

/-- Section 2.6. -/
theorem test_blez_positive : flow 0x18800003 0x80000000 0 = some (0x1008, 0xFFFFFFFF) := by decide

/-- Section 2.6. -/
theorem test_bgtz_zero : flow 0x1C800003 0 0 = some (0x1008, 0xFFFFFFFF) := by decide

/-- Section 2.6. -/
theorem test_bgtz_positive : flow 0x1C800003 0x80000000 0 = some (0x1010, 0xFFFFFFFF) := by decide

/-- Section 2.6. -/
theorem test_blezl : flow 0x58800003 0x8000000000000000 0 = some (0x1010, 0xFFFFFFFF) := by decide

/-- Section 2.6. -/
theorem test_blezl_squash : flow 0x58800003 1 0 = some (0x1008, 0) := by decide

/-- Section 2.6. -/
theorem test_bgtzl : flow 0x5C800003 0x7FFFFFFFFFFFFFFF 0 = some (0x1010, 0xFFFFFFFF) := by decide

/-- Section 2.6. -/
theorem test_bgtzl_squash : flow 0x5C800003 0 0 = some (0x1008, 0) := by decide

/-- Section 2.6. -/
theorem test_bltz : flow 0x04800003 0x8000000000000000 0 = some (0x1010, 0xFFFFFFFF) := by decide

/-- Section 2.6. -/
theorem test_bltz_not_taken : flow 0x04800003 0x80000000 0 = some (0x1008, 0xFFFFFFFF) := by decide

/-- Section 2.6. -/
theorem test_bgez : flow 0x04810003 0 0 = some (0x1010, 0xFFFFFFFF) := by decide

/-- Section 2.6. -/
theorem test_bgez_not_taken : flow 0x04810003 0xFFFFFFFFFFFFFFFF 0 = some (0x1008, 0xFFFFFFFF) := by decide

/-- Section 2.6. -/
theorem test_bltzl : flow 0x04820003 0xFFFFFFFFFFFFFFFF 0 = some (0x1010, 0xFFFFFFFF) := by decide

/-- Section 2.6. -/
theorem test_bltzl_squash : flow 0x04820003 0 0 = some (0x1008, 0) := by decide

/-- Section 2.6. -/
theorem test_bgezl : flow 0x04830003 0 0 = some (0x1010, 0xFFFFFFFF) := by decide

/-- Section 2.6. -/
theorem test_bgezl_squash : flow 0x04830003 0xFFFFFFFFFFFFFFFF 0 = some (0x1008, 0) := by decide

/-- Section 2.6: the link value is `pc + 4`, taken or not. -/
theorem test_bltzal : reg 31 0x04900003 0xFFFFFFFFFFFFFFFF 0 = some 0x1004 ∧ flow 0x04900003 0xFFFFFFFFFFFFFFFF 0 = some (0x1010, 0xFFFFFFFF) := by decide

/-- Section 2.6: the link value is `pc + 4`, taken or not. -/
theorem test_bgezal : reg 31 0x04910003 0xFFFFFFFFFFFFFFFF 0 = some 0x1004 ∧ flow 0x04910003 0xFFFFFFFFFFFFFFFF 0 = some (0x1008, 0xFFFFFFFF) := by decide

/-- Section 2.6: the link value is `pc + 4`, taken or not. -/
theorem test_bltzall : reg 31 0x04920003 1 0 = some 0x1004 ∧ flow 0x04920003 1 0 = some (0x1008, 0) := by decide

/-- Section 2.6: the link value is `pc + 4`, taken or not. -/
theorem test_bgezall : reg 31 0x04930003 1 0 = some 0x1004 ∧ flow 0x04930003 1 0 = some (0x1010, 0xFFFFFFFF) := by decide

/-- Section 2.6: `BGEZAL $ra` tests the old register 31. -/
theorem test_bgezal_own_link : reg 31 0x07F10003 0 0 = some 0x1004 ∧ flow 0x07F10003 0 0 = some (0x1008, 0xFFFFFFFF) := by decide

/-- Section 2.7, with `$a0` as target: all 64 bits of it; the link value is `pc + 4`. -/
theorem test_jalr : reg 31 0x0080F809 0xFFFFFFFF80001000 0 = some 0x1004 ∧ flow 0x0080F809 0xFFFFFFFF80001000 0 = some (0xFFFFFFFF80001000, 0xFFFFFFFF) := by decide

/-- Section 2.7: `rd` = `rs`, the old value is the target. -/
theorem test_jalr_own : reg 4 0x00802009 0x2000 0 = some 0x1004 ∧ flow 0x00802009 0x2000 0 = some (0x2000, 0xFFFFFFFF) := by decide

/-- Section 2.7: a misaligned target is taken as it is, and no register is written. -/
theorem test_jr : flow 0x0080F808 0x2002 0 = some (0x2002, 0xFFFFFFFF) ∧ reg 31 0x0080F808 0x2002 0 = some ones64 := by decide

/-- Section 2.8, end to end. -/
theorem test_lb : reg 2 0x80820000 0x2004 0 = some 0xFFFFFFFFFFFFFFDE := by decide

/-- Section 2.8, end to end. -/
theorem test_lbu : reg 2 0x90820003 0x2004 0 = some 0xEF := by decide

/-- Section 2.8, end to end. -/
theorem test_lh : reg 2 0x84820002 0x2004 0 = some 0xFFFFFFFFFFFFBEEF := by decide

/-- Section 2.8, end to end. -/
theorem test_lhu : reg 2 0x94820000 0x2004 0 = some 0xDEAD := by decide

/-- Section 2.8, end to end. -/
theorem test_lw : reg 2 0x8C820000 0x2004 0 = some 0xFFFFFFFFDEADBEEF := by decide

/-- Section 2.8, end to end. -/
theorem test_lwu : reg 2 0x9C820000 0x2004 0 = some 0xDEADBEEF := by decide

/-- Section 2.8. -/
theorem test_lh_misaligned : fault 0x84820001 0x2000 0 = some (.unalignedAddress, some (0x2001, .read)) := by decide

/-- Section 2.8. -/
theorem test_lhu_misaligned : fault 0x94820001 0x2000 0 = some (.unalignedAddress, some (0x2001, .read)) := by decide

/-- Section 2.8. -/
theorem test_lw_misaligned : fault 0x8C820002 0x2000 0 = some (.unalignedAddress, some (0x2002, .read)) := by decide

/-- Section 2.8. -/
theorem test_lwu_misaligned : fault 0x9C820001 0x2000 0 = some (.unalignedAddress, some (0x2001, .read)) := by decide

/-- The bytes at 0x2000 to 0x2003 and the request after one step. -/
def stored (w : IWord) (a b : Value) : Option (List Byte × Option BusRequest) :=
  seen (fun t => (([0x2000#64, 0x2001#64, 0x2002#64, 0x2003#64].map fun p => t.byteAt p), t.exmem.req))
    (step (ready w a b))

/-- Section 2.9. -/
theorem test_sb : stored 0xA0850001 0x2000 0x1122334455667788 =
    some ([0, 0x88, 0, 0], some ⟨0x2001, .write, .byte, 0x00880000, 0x00FF0000⟩) := by decide

/-- Section 2.9. -/
theorem test_sh : stored 0xA4850002 0x2000 0x1122334455667788 =
    some ([0, 0, 0x77, 0x88], some ⟨0x2002, .write, .half, 0x00007788, 0x0000FFFF⟩) := by decide

/-- Section 2.9. -/
theorem test_sw : stored 0xAC850000 0x2000 0x1122334455667788 =
    some ([0x55, 0x66, 0x77, 0x88], some ⟨0x2000, .write, .word, 0x55667788, 0xFFFFFFFF⟩) := by decide

/-- Section 2.9: the effective address wraps to 0. -/
theorem test_sb_wraps : seen (fun t => t.byteAt 0) (step (ready 0xA0850001 ones64 0x1122334455667788)) = some 0x88 := by decide

/-- Section 2.9. -/
theorem test_sh_misaligned : fault 0xA4850003 0x2000 0 = some (.unalignedAddress, some (0x2003, .write)) := by decide

/-- Section 2.9. -/
theorem test_sw_misaligned : fault 0xAC850002 0x2000 0 = some (.unalignedAddress, some (0x2002, .write)) := by decide

/-- Section 2.10. -/
theorem test_mtc0 : seen (fun t => t.readC 12) (step (ready 0x40856000 0 0x80000001)) = some 0xFFFFFFFF80000001 := by decide

/-- Section 2.10: control register 0 is written. -/
theorem test_mtc0_zero : seen (fun t => t.readC 0) (step (ready 0x40850000 0 0x123456789)) = some 0x23456789 := by decide

/-- Section 2.11. -/
theorem test_invalid : fault 0x0000000C 0 0 = some (.unimplementedOpcode, none) := by decide

/-- Section 2.11: the reserved size code, tested before the alignment. -/
theorem test_reserved :
    handleLoad ⟨0x88820000, maskNormal, .invalid, 0x1000⟩ 0x2001 =
      .fault ⟨.reservedInstruction, 0x1000, 0x88820000, none⟩ ∧
    handleStore ⟨0xA8850000, maskNormal, .invalid, 0x1000⟩ 0x2001 0 =
      .fault ⟨.reservedInstruction, 0x1000, 0xA8850000, none⟩ := by
  decide

/-- Section 2.9, the function values at misaligned addresses. -/
theorem test_laneMask :
    laneMask .half 1 = 0x00FFFF00 ∧ writeWord .half 1 0x1122334455667788 = 0x00778800 ∧
    laneMask .half 3 = 0x000000FF ∧ writeWord .word 1 0x1122334455667788 = 0x00556677 := by
  decide

/-- Section 2.13: a squashed word is the word 0; the mask is NORMAL again. -/
theorem test_squashed :
    seen (fun t => (t.deex.iw, t.deex.opcodeId, t.deex.iwSquashMask))
      (step { ready 0x0000000C 0 0 with deex := { emptyDeex with iwSquashMask := maskSquashed } }) =
      some (0, .sll, 0xFFFFFFFF) := by
  decide

/-- R43, R44: the byte at the lowest address is the most significant. -/
theorem test_bytesWord : bytesWord 0x11 0x22 0x33 0x44 = 0x11223344 ∧ bytesHalf 0x33 0x44 = 0x3344 := by decide

/-- From reset, a word placed where the step fetches is the first instruction handled, at RESET_PC (R34). -/
theorem test_first_after_reset :
    seen (fun t => (t.readX 8, t.deex.currentPc, t.pc)) (step (State.reset.withFetchWord 32 0x20080064)) =
      some (0x64, Config.resetPc, some (Config.resetPc + 4)) := by
  decide

/-- With no program launched, the first fetch is refused (R273). -/
theorem test_reset_without_program : step State.reset = .refused (.fetchOutsideText Config.resetPc) := rfl

/-- A launch (R270) places the program big-endian and starts at the entry. -/
theorem test_launch :
    let s := State.reset.launch 0x1000 0x1000 [0x34020000, 0x24420001] []
    s.byteAt 0x1000 = 0x34 ∧ s.byteAt 0x1007 = 0x01 ∧ s.pc = some 0x1000 ∧ s.fetchNextPc = 0x1004 ∧
      s.text = some ⟨0x1000, 8⟩ := by
  decide

/-! ## Witnesses: the hypotheses of each statement are met -/

/-- The greatest and the least shift amount. -/
theorem test_witness_DecodeInvertsEncode :
    (Instr.sll 31 31 31).WellFormed = true ∧ (Instr.srl 0 0 0).WellFormed = true := by decide

/-- A word with all unused bits set. -/
theorem test_witness_EncodeKeepsUsedBits :
    decode 0x03FFFFC8 = .ok (.jr 31) := by decide

/-- The same with them clear. -/
theorem test_witness_UnusedBitsIgnored :
    decode 0x03E00008 = .ok (.jr 31) ∧ 0x03FFFFC8 &&& (Instr.jr 31).usedBits = 0x03E00008 &&& (Instr.jr 31).usedBits := by decide

/-- A row with a word of it, and a word of no row. -/
theorem test_witness_DecodeFollowsOpcodeTable :
    (⟨"MTC0", 0xFFE00000, 0x40800000⟩ : TableRow) ∈ opcodeTable ∧
    TableRow.matches ⟨"MTC0", 0xFFE00000, 0x40800000⟩ 0x40856000 = true ∧ ∀ r ∈ opcodeTable, r.matches 0x0000000C = false := by decide

/-- The rows of the statements about instructions: for each, a word whose fields are the row's. -/
theorem test_witness_rows :
    (fieldOp 0x00851020 = 0 ∧ fieldFunct 0x00851020 = 0x20) ∧ (fieldOp 0x00851022 = 0 ∧ fieldFunct 0x00851022 = 0x22) ∧
    (fieldOp 0x00851021 = 0 ∧ fieldFunct 0x00851021 = 0x21) ∧ (fieldOp 0x00851023 = 0 ∧ fieldFunct 0x00851023 = 0x23) ∧
    (fieldOp 0x00851024 = 0 ∧ fieldFunct 0x00851024 = 0x24) ∧ (fieldOp 0x00851025 = 0 ∧ fieldFunct 0x00851025 = 0x25) ∧
    (fieldOp 0x00851026 = 0 ∧ fieldFunct 0x00851026 = 0x26) ∧ (fieldOp 0x00051100 = 0 ∧ fieldFunct 0x00051100 = 0) ∧
    (fieldOp 0x00051102 = 0 ∧ fieldFunct 0x00051102 = 2) ∧ (fieldOp 0x0100F809 = 0 ∧ fieldFunct 0x0100F809 = 9) ∧
    (fieldOp 0x03E00008 = 0 ∧ fieldFunct 0x03E00008 = 8) ∧ (fieldOp 0x04800003 = 1 ∧ fieldRt 0x04800003 = 0) ∧
    (fieldOp 0x04810003 = 1 ∧ fieldRt 0x04810003 = 1) ∧ (fieldOp 0x04820003 = 1 ∧ fieldRt 0x04820003 = 2) ∧
    (fieldOp 0x04830003 = 1 ∧ fieldRt 0x04830003 = 3) ∧ (fieldOp 0x04900003 = 1 ∧ fieldRt 0x04900003 = 0x10) ∧
    (fieldOp 0x04910003 = 1 ∧ fieldRt 0x04910003 = 0x11) ∧ (fieldOp 0x04920003 = 1 ∧ fieldRt 0x04920003 = 0x12) ∧
    (fieldOp 0x04930003 = 1 ∧ fieldRt 0x04930003 = 0x13) ∧ (fieldOp 0x40856000 = 0x10 ∧ fieldRs 0x40856000 = 4) := by
  decide

theorem test_witness_major_rows :
    fieldOp 0x10850003 = 0x04 ∧ fieldOp 0x14850003 = 0x05 ∧ fieldOp 0x18800003 = 0x06 ∧ fieldOp 0x1C800003 = 0x07 ∧
    fieldOp 0x20080064 = 0x08 ∧ fieldOp 0x2482FFFC = 0x09 ∧ fieldOp 0x3082FF00 = 0x0C ∧ fieldOp 0x3482FF00 = 0x0D ∧
    fieldOp 0x3882FF00 = 0x0E ∧ fieldOp 0x3C028000 = 0x0F ∧ fieldOp 0x50850003 = 0x14 ∧ fieldOp 0x54850003 = 0x15 ∧
    fieldOp 0x58800003 = 0x16 ∧ fieldOp 0x5C800003 = 0x17 ∧ fieldOp 0x80820000 = 0x20 ∧ fieldOp 0x84820002 = 0x21 ∧
    fieldOp 0x8C82FFFC = 0x23 ∧ fieldOp 0x90820003 = 0x24 ∧ fieldOp 0x94820002 = 0x25 ∧ fieldOp 0x9C820000 = 0x27 ∧
    fieldOp 0xA0850001 = 0x28 ∧ fieldOp 0xA4850002 = 0x29 ∧ fieldOp 0xAC850000 = 0x2B := by
  decide

/-- A state for the witnesses: `$a0` and `$a1` hold `a` and `b`; the program text is [0x1000, 0x1004), and 0x2000 to
0x2007 is the data memory. -/
def small (a b : Value) : State :=
  { State.reset with
    pc := some 0x1000#64
    fetchNextPc := 0x1004#64
    x := (State.reset.x.set 4 a).set 5 b
    held := [⟨0x2000, 8⟩]
    text := some ⟨0x1000#64, 4⟩ }

/-- The last sum and difference in range, and the first outside. -/
theorem test_witness_AddSubTrapping :
    ((small 0x7FFFFFFE 1).readX 4 + (small 0x7FFFFFFE 1).readX 5).getLsbD 32 =
      ((small 0x7FFFFFFE 1).readX 4 + (small 0x7FFFFFFE 1).readX 5).getLsbD 31 ∧
    ((small 0x7FFFFFFF 1).readX 4 + (small 0x7FFFFFFF 1).readX 5).getLsbD 32 ≠
      ((small 0x7FFFFFFF 1).readX 4 + (small 0x7FFFFFFF 1).readX 5).getLsbD 31 ∧
    ((small 0xFFFFFFFF80000001 1).readX 4 - (small 0xFFFFFFFF80000001 1).readX 5).getLsbD 32 =
      ((small 0xFFFFFFFF80000001 1).readX 4 - (small 0xFFFFFFFF80000001 1).readX 5).getLsbD 31 ∧
    ((small 0xFFFFFFFF80000000 1).readX 4 - (small 0xFFFFFFFF80000000 1).readX 5).getLsbD 32 ≠
      ((small 0xFFFFFFFF80000000 1).readX 4 - (small 0xFFFFFFFF80000000 1).readX 5).getLsbD 31 := by decide

/-- The same for an immediate. -/
theorem test_witness_AddImmediate :
    ((small 0x7FFFFFFE 0).readX 4 + (1 : Imm).signExtend 64).getLsbD 32 =
      ((small 0x7FFFFFFE 0).readX 4 + (1 : Imm).signExtend 64).getLsbD 31 ∧
    ((small 0x7FFFFFFF 0).readX 4 + (1 : Imm).signExtend 64).getLsbD 32 ≠
      ((small 0x7FFFFFFF 0).readX 4 + (1 : Imm).signExtend 64).getLsbD 31 := by decide

/-- The same for a difference. -/
theorem test_witness_SubImmediateVariants :
    ((small 0xFFFFFFFF80000001 0).readX 4 - (1 : Imm).signExtend 64).getLsbD 32 =
      ((small 0xFFFFFFFF80000001 0).readX 4 - (1 : Imm).signExtend 64).getLsbD 31 ∧
    ((small 0xFFFFFFFF80000000 0).readX 4 - (1 : Imm).signExtend 64).getLsbD 32 ≠
      ((small 0xFFFFFFFF80000000 0).readX 4 - (1 : Imm).signExtend 64).getLsbD 31 := by decide

/-- Both senses; for the likely forms too. -/
theorem test_witness_EqualityBranches :
    (small 7 7).readX 4 = (small 7 7).readX 5 ∧ (small 0x100000000 0).readX 4 ≠ (small 0x100000000 0).readX 5 := by decide

/-- Both senses. -/
theorem test_witness_EqualityBranchesLikely :
    (small 7 7).readX 4 = (small 7 7).readX 5 ∧ (small 0x100000000 0).readX 4 ≠ (small 0x100000000 0).readX 5 := by decide

/-- Both sides of the boundary, for the ordinary, the likely and the linking forms. -/
theorem test_witness_SignBranches :
    0 ≤ ((small 0 0).readX 4).toInt ∧ ((small ones64 0).readX 4).toInt < 0 := by decide

/-- Taken and not taken. -/
theorem test_witness_SignBranchesLikely :
    0 ≤ ((small 0 0).readX 4).toInt ∧ ((small ones64 0).readX 4).toInt < 0 := by decide

/-- Both sides of the boundary. -/
theorem test_witness_ZeroBranches :
    0 < ((small 1 0).readX 4).toInt ∧ ((small 0 0).readX 4).toInt ≤ 0 := by decide

/-- Taken and not taken. -/
theorem test_witness_ZeroBranchesLikely :
    0 < ((small 1 0).readX 4).toInt ∧ ((small 0 0).readX 4).toInt ≤ 0 := by decide

/-- Taken and not taken. -/
theorem test_witness_LinkingBranches :
    0 ≤ ((small 0 0).readX 4).toInt ∧ ((small ones64 0).readX 4).toInt < 0 := by decide

/-- Taken and not taken. -/
theorem test_witness_LinkingBranchesLikely :
    0 ≤ ((small 0 0).readX 4).toInt ∧ ((small ones64 0).readX 4).toInt < 0 := by decide

/-- The last byte held. -/
theorem test_witness_ByteLoads :
    ∀ a ∈ accessAddrs 0x2007 .byte, (small 0x2007 0).holds a = true := by
  simp only [accessAddrs, List.mem_cons, List.not_mem_nil, or_false, forall_eq]
  decide

/-- The last aligned halfword held, and an odd address. -/
theorem test_witness_HalfwordLoads :
    (0x2006#64).toNat % 2 = 0 ∧ (∀ a ∈ accessAddrs 0x2006 .half, (small 0x2006 0).holds a = true) ∧ (0x2007#64).toNat % 2 ≠ 0 := by
  simp only [accessAddrs, List.mem_cons, List.not_mem_nil, or_false, forall_eq_or_imp, forall_eq]
  decide

/-- The last aligned word held, and an address two bytes off. -/
theorem test_witness_WordLoads :
    (0x2004#64).toNat % 4 = 0 ∧ (∀ a ∈ accessAddrs 0x2004 .word, (small 0x2004 0).holds a = true) ∧ (0x2006#64).toNat % 4 ≠ 0 := by
  simp only [accessAddrs, List.mem_cons, List.not_mem_nil, or_false, forall_eq_or_imp, forall_eq]
  decide

/-- The first byte that can be written. -/
theorem test_witness_ByteStore :
    ∀ a ∈ accessAddrs 0x2000 .byte, (small 0x2000 0).holds a = true ∧ (small 0x2000 0).inText a = false := by
  simp only [accessAddrs, List.mem_cons, List.not_mem_nil, or_false, forall_eq]
  decide

/-- An aligned halfword, and an odd address. -/
theorem test_witness_HalfwordStore :
    (0x2002#64).toNat % 2 = 0 ∧
    (∀ a ∈ accessAddrs 0x2002 .half, (small 0x2002 0).holds a = true ∧ (small 0x2002 0).inText a = false) ∧
    (0x2001#64).toNat % 2 ≠ 0 := by
  simp only [accessAddrs, List.mem_cons, List.not_mem_nil, or_false, forall_eq_or_imp, forall_eq]
  decide

/-- An aligned word, and an address two bytes off. -/
theorem test_witness_WordStore :
    (0x2004#64).toNat % 4 = 0 ∧
    (∀ a ∈ accessAddrs 0x2004 .word, (small 0x2004 0).holds a = true ∧ (small 0x2004 0).inText a = false) ∧
    (0x2006#64).toNat % 4 ≠ 0 := by
  simp only [accessAddrs, List.mem_cons, List.not_mem_nil, or_false, forall_eq_or_imp, forall_eq]
  decide

/-- LWL's word has the size code 2. -/
theorem test_witness_ReservedSizeCode :
    (0x88820000#32).extractLsb' 26 2 = 2#2 := by decide

/-- Each size at its last aligned address of a bus word. -/
theorem test_witness_LaneWriteIsMemWrite :
    aligned .byte 0x2003 = true ∧ aligned .half 0x2002 = true ∧ aligned .word 0x2000 = true := by decide

/-- The status and a field after a word and then another are executed in a loaded latch. -/
def afterTwo (i j : Instr) (s : State) : Option (Status × Value) :=
  match exec i s with
  | .next t =>
    match exec j t with
    | .next u => some (t.status, u.readX 2)
    | _ => none
  | _ => none

/-- Each pair stores at 0x2000 and loads from there, by another base register and offset, the machine running. -/
theorem test_witness_LoadAfterStore :
    let s := { small 0x2000 0x11223344D566F788 with x := (small 0x2000 0x11223344D566F788).x.set 6 0x2004 }
    s.readX 6 + (0xFFFC#16).signExtend 64 = s.readX 4 + (0#16).signExtend 64 ∧
    afterTwo (.sw 5 4 0) (.lw 2 6 0xFFFC) s = some (.running, 0xFFFFFFFFD566F788) ∧
    afterTwo (.sw 5 4 0) (.lwu 2 6 0xFFFC) s = some (.running, 0xD566F788) ∧
    afterTwo (.sh 5 4 0) (.lh 2 6 0xFFFC) s = some (.running, 0xFFFFFFFFFFFFF788) ∧
    afterTwo (.sh 5 4 0) (.lhu 2 6 0xFFFC) s = some (.running, 0xF788) ∧
    afterTwo (.sb 5 4 0) (.lb 2 6 0xFFFC) s = some (.running, 0xFFFFFFFFFFFFFF88) ∧
    afterTwo (.sb 5 4 0) (.lbu 2 6 0xFFFC) s = some (.running, 0x88) := by
  decide

/-- The first byte, the last halfword and the only word of the text; the byte after the text is not in it. -/
theorem test_witness_StoreIntoTextRefused :
    (small 0 0).inText 0x1000 = true ∧ (0x1002#64).toNat % 2 = 0 ∧
    (∃ a ∈ accessAddrs 0x1002 .half, (small 0 0).inText a = true) ∧ (0x1000#64).toNat % 4 = 0 ∧
    (∃ a ∈ accessAddrs 0x1000 .word, (small 0 0).inText a = true) ∧ (small 0 0).inText 0x1004 = false := by
  simp only [accessAddrs, List.mem_cons, List.not_mem_nil, or_false, exists_eq_or_imp, exists_eq_left]
  decide

/-- The first byte after the data memory, which is even and a multiple of 4; and, where the memory ends within them, a
halfword and a word of which the first byte is held. Neither touches the program text. -/
theorem test_witness_AbsentAddressRefused :
    let s := { small 0x2004 0 with held := [⟨0x2000, 5⟩] }
    (small 0x2008 0).holds 0x2008 = false ∧ (small 0x2008 0).holds 0x2007 = true ∧ s.holds 0x2004 = true ∧
    (0x2004#64).toNat % 2 = 0 ∧ (∃ a ∈ accessAddrs 0x2004 .half, s.holds a = false) ∧
    (∀ a ∈ accessAddrs 0x2004 .half, s.inText a = false) ∧
    (0x2004#64).toNat % 4 = 0 ∧ (∃ a ∈ accessAddrs 0x2004 .word, s.holds a = false) ∧
    (∀ a ∈ accessAddrs 0x2004 .word, s.inText a = false) := by
  simp only [accessAddrs, List.mem_cons, List.not_mem_nil, or_false, exists_eq_or_imp, exists_eq_left,
    forall_eq_or_imp, forall_eq]
  decide

/-- A memory in canonical form with the first and the last address listed. -/
theorem test_witness_CanonicalMemoriesEqual :
    Memory.wf [(0, 1#8), (2 ^ 64 - 1, 2#8)] = true ∧ Memory.wf [(0, 0#8)] = false := by decide

/-- MTC0 changes control register 12. -/
theorem test_witness_OnlyMtc0ChangesControl :
    (ready 0x40856000 0 1).readC 12 = 0 ∧ seen (fun t => t.readC 12) (step (ready 0x40856000 0 1)) = some 1 := by decide

/-- A latch loaded with ADD. -/
theorem test_witness_DispatchTableAgrees :
    decode ((ready 0x00851020 5 7).loadDeex 0x00851020).deex.iw = .ok (.add 2 4 5) ∧
    ((ready 0x00851020 5 7).loadDeex 0x00851020).deex.opcodeId =
      decodeId ((ready 0x00851020 5 7).loadDeex 0x00851020).deex.iw := by
  decide

/-- The kind and the access that an instruction's fault records. -/
def raised (i : Instr) (s : State) : Option (FaultKind × Option (Addr × AccessKind)) :=
  match exec i s with
  | .next t =>
    match t.status with
    | .faulted f => some (f.kind, f.access)
    | _ => none
  | _ => none

/-- One fault of each kind that an instruction can raise, from a running machine. -/
theorem test_witness_FaultsByInstruction :
    (small 0 0).status = .running ∧
    raised (.add 2 4 5) (small 0x7FFFFFFF 1) = some (.integerOverflow, none) ∧
    raised (.lw 2 4 0) (small 0x2002 0) = some (.unalignedAddress, some (0x2002, .read)) ∧
    raised (.sh 5 4 0) (small 0x2001 0) = some (.unalignedAddress, some (0x2001, .write)) := by
  decide

/-- A step that records a fault. -/
theorem test_witness_FaultingStepWritesNothing :
    fault 0x00851020 0x7FFFFFFF 1 = some (.integerOverflow, none) := by decide

/-- A machine that fetches SYSCALL, which is no instruction in scope. -/
theorem test_witness_InvalidWordFaults :
    Fetches (ready 0x0000000C 0 0) 0x1000 0x0000000C ∧
    decode (0x0000000C &&& (ready 0x0000000C 0 0).deex.iwSquashMask) = .error (.specialFunct 0x0C) := by
  unfold Fetches
  decide

/-- A machine that fetches ADD. -/
theorem test_witness_StepRunsDecodedInstruction :
    Fetches (ready 0x00851020 5 7) 0x1000 0x00851020 ∧
    decode (0x00851020 &&& (ready 0x00851020 5 7).deex.iwSquashMask) = .ok (.add 2 4 5) := by
  unfold Fetches
  decide

/-- An aligned fetch in the text, a misaligned one, and one just after the text. -/
theorem test_witness_FetchContract :
    ((small 0 0).pc = some 0x1000 ∧ (0x1000#64).toNat % 4 = 0 ∧ (small 0 0).inText 0x1000 = true) ∧
    ((small 0 0).status = .running ∧ { small 0 0 with pc := some 0x1002 }.atEnd = false ∧ (0x1002#64).toNat % 4 ≠ 0) ∧
    ({ small 0 0 with pc := some 0x1004 }.atEnd = false ∧ (0x1004#64).toNat % 4 = 0 ∧
      ¬((0x1004#64 - 0x1000#64).toNat < 4)) := by
  decide

/-- A machine at the end of its text, and one that is not. -/
theorem test_witness_RunEndsAtTextEnd :
    step { small 0 0 with pc := some 0x1004, fetchNextPc := 0x1008 } =
      .next { small 0 0 with pc := some 0x1004, fetchNextPc := 0x1008, status := .ended } ∧
    (small 0 0).status = .running := by
  exact ⟨rfl, rfl⟩

/-- A machine stopped at a fault, and one whose run has ended. -/
theorem test_witness_StoppedMachineTakesNoStep :
    { small 0 0 with status := .faulted ⟨.integerOverflow, 0x1000, 0x00851020, none⟩ }.status =
      .faulted ⟨.integerOverflow, 0x1000, 0x00851020, none⟩ ∧
    { small 0 0 with status := .ended }.status = .ended := by
  decide

/-- A machine that fetches a word behind a likely branch that was not taken. -/
theorem test_witness_SquashedSlotDoesNothing :
    Fetches { ready 0xFFFFFFFF 0 0 with deex := { emptyDeex with iwSquashMask := 0 } } 0x1000 0xFFFFFFFF := by
  unfold Fetches
  decide

/-- A step that leaves the machine running: not taken, taken. -/
theorem test_witness_AddressRecurrence :
    flow 0x10850003 7 8 = some (0x1008, 0xFFFFFFFF) ∧ flow 0x10850003 7 7 = some (0x1010, 0xFFFFFFFF) := by decide

/-- The program P5 of section 3, from its second word on: `p` = 0x1004, `T` = 0x1014, `U` = 0x1020. -/
def branchInSlot : State :=
  State.reset.launch 0x1004 0x1004 [0x10000003, 0x10000005, 0x24420001, 0x24420002, 0x24420004, 0x24420008,
    0x24420010, 0x24420020, 0x24420040] []

/-- The target an outcome writes. -/
def targetOf : HandlerOutcome → Option Addr
  | .ok w => w.nextPc
  | .fault _ => none

/-- The state after a step that leaves the machine running. -/
def after (s : State) : State := (seen id (step s)).getD s

theorem test_witness_TransferInDelaySlot :
    Fetches branchInSlot 0x1004 0x10000003 ∧ branchInSlot.fetchNextPc = 0x1004 + 4 ∧
    targetOf (branchInSlot.atHandler 0x10000003).handlerOutcome = some 0x1014 ∧
    (seen State.atEnd (step branchInSlot) = some false) ∧
    (after branchInSlot).pc = some 0x1008 ∧
    targetOf ((after branchInSlot).atHandler 0x10000005).handlerOutcome = some 0x1020 := by
  unfold Fetches
  decide

theorem test_witness_TransferInDelaySlot_steps :
    seen State.fetchAddr (step (after branchInSlot)) = some 0x1014 ∧
    seen State.fetchAddr (step (after (after branchInSlot))) = some 0x1020 := by
  decide

theorem test_witness_TransferInDelaySlot_fetch :
    ((after branchInSlot).fetchWord = .ok 0x10000005) := by
  decide

/-- A store step, and an address of the text. -/
theorem test_witness_ProgramTextImmutable :
    (ready 0xA0850001 0x2000 1).inText 0x1000 = true ∧
    seen (fun t => t.byteAt 0x2001) (step (ready 0xA0850001 0x2000 1)) = some 1 := by
  decide

/-- A state with the invariant from which a step answers a next state. -/
theorem test_witness_StepKeepsInvariant :
    (ready 0xA0850001 0x2000 1).mem.wf = true ∧ (ready 0xA0850001 0x2000 1).deex.wf = true ∧
    (ready 0xA0850001 0x2000 1).exmem.wf = true ∧
    (∀ t, (ready 0xA0850001 0x2000 1).text = some t → t.wf = true) ∧
    seen (fun t => t.byteAt 0x2001) (step (ready 0xA0850001 0x2000 1)) = some 1 := by
  refine ⟨by decide, by decide, by decide, ?_, by decide⟩
  intro t h
  cases h
  decide

/-- After reset nothing has been fetched. -/
theorem test_witness_FirstFetchIsNextPc : State.reset.pc = none := by decide

/-- A recorded fault. -/
theorem test_witness_DriverRedirectsToVector :
    (State.reset.takeFault ⟨.unimplementedOpcode, 0x1000, 0x0000000C, none⟩).status =
      .faulted ⟨.unimplementedOpcode, 0x1000, 0x0000000C, none⟩ := by
  decide

end Sys2Proof.Tests
end

/-! # What the handlers can do, and the statements about the state (10_state.md) -/

namespace Sys2Proof.Machine

/-- `gprDest_getLsbD_five` with the bit as `simp` spells it. -/
@[simp] theorem gprDest_getElem_five (r : Reg) : (gprDest r)[5] = false := gprDest_getLsbD_five r

/-! ## The handler shapes

`exec` has 43 arms and seven shapes of handler outcome. The shapes, with the arms that have each, are said once here;
a property of every step is then a property of seven shapes. -/

/-- The outcomes that the meaning of an instruction can compute in a state, by the shape of its handler. MTC0 alone
aims at a control register. -/
inductive HandlerShape (s : State) : Instr → HandlerOutcome → Prop where
  /-- The add/subtract shape (R110). -/
  | addSub {i : Instr} (a b : Value) (sub trap : Bool) (r : Reg) :
      HandlerShape s i (addSub s.deex a b sub trap (gprDest r))
  /-- A bitwise, shift or load-upper result (R121, R127, R129). -/
  | result {i : Instr} (r : Reg) (v : Value) : HandlerShape s i (resultOnly (gprDest r) v)
  /-- The branch shape (R151). -/
  | branch {i : Instr} (taken likely link : Bool) (imm : Imm) :
      HandlerShape s i (branch s.deex taken likely link imm)
  /-- The register-jump shape (R169). -/
  | jump {i : Instr} (a : Value) (r : Reg) : HandlerShape s i (jump s.deex a (gprDest r))
  /-- The load shape (R190). -/
  | load {i : Instr} (a : Value) (imm : Imm) (size : AccessSize) (zeroExtend : Bool) (r : Reg) :
      HandlerShape s i (load s.deex a imm size zeroExtend (gprDest r))
  /-- The store shape (R198). -/
  | store {i : Instr} (a b : Value) (imm : Imm) (size : AccessSize) : HandlerShape s i (store s.deex a b imm size)
  /-- The move to a control register (R220). -/
  | moveToControl (rt rd : Reg) : HandlerShape s (.mtc0 rt rd) (resultOnly (crDest rd) (sext32 (s.readX rt)))

/-- The meaning of an instruction completes an outcome of one of the shapes. -/
theorem exec_eq_complete (i : Instr) (s : State) : ∃ o, HandlerShape s i o ∧ exec i s = s.complete o := by
  cases i
  case add | sub | addi => exact ⟨_, .addSub .., rfl⟩
  case addu | subu | addiu => exact ⟨_, .addSub (trap := false) .., rfl⟩
  case and | or | xor | andi | ori | xori | lui | sll | srl => exact ⟨_, .result .., rfl⟩
  case beq | bne | beql | bnel | bltz | bgez | bltzl | bgezl | bltzal | bgezal | bltzall | bgezall | blez | bgtz
    | blezl | bgtzl => exact ⟨_, .branch .., rfl⟩
  case jr rs => exact ⟨_, .jump (s.readX rs) 0#5, rfl⟩
  case jalr => exact ⟨_, .jump .., rfl⟩
  case lb | lh | lw | lbu | lhu | lwu => exact ⟨_, .load .., rfl⟩
  case sb | sh | sw => exact ⟨_, .store .., rfl⟩
  case mtc0 => exact ⟨_, .moveToControl .., rfl⟩

/-- A next state after the word in the latch is handled: the word is no instruction and the fault is recorded, or an
outcome of its instruction's shape completes. -/
theorem handleLoaded_next {s t : State} (h : handleLoaded s = .next t) :
    (∃ e, decode s.deex.iw = .error e ∧ t = s.takeFault (s.deex.faultInfo .unimplementedOpcode none)) ∨
    (∃ i o, decode s.deex.iw = .ok i ∧ HandlerShape s i o ∧ s.complete o = .next t) := by
  cases hd : decode s.deex.iw with
  | error e =>
    rw [handleLoaded_of_error hd] at h
    cases h
    exact .inl ⟨e, rfl, rfl⟩
  | ok i =>
    obtain ⟨o, ho, he⟩ := exec_eq_complete i s
    rw [handleLoaded_of_ok hd, he] at h
    exact .inr ⟨i, o, rfl, ho, h⟩

/-- Completing an outcome leaves the word in the latch (R29). -/
theorem State.complete_deex_iw {s t : State} {o : HandlerOutcome} (h : s.complete o = .next t) :
    t.deex.iw = s.deex.iw := by
  obtain ⟨f, -, rfl⟩ | ⟨w, u, -, hu, rfl⟩ := State.complete_next h
  · rfl
  · obtain ⟨-, -, hdeex, -⟩ := State.commit_frame hu
    simp [hdeex]

/-! ## Legal outcomes -/

/-- The latch writes of the outcome leave a legal Execute/Memory latch (R14, R24) and a legal squash mask (R22). -/
def HandlerOutcome.Legal : HandlerOutcome → Prop
  | .fault _ => True
  | .ok w =>
    ExmemLatch.wf ⟨w.result, w.dest, w.req⟩ = true ∧
      ∀ m, w.squashMask = some m → m = maskNormal ∨ m = maskSquashed

theorem resultOnly_legal (d : Dest) (v : Value) : (resultOnly d v).Legal := ⟨rfl, nofun⟩

theorem addSub_legal (e : DeexLatch) (a b : Value) (sub trap : Bool) (d : Dest) :
    (addSub e a b sub trap d).Legal := by
  obtain ⟨-, -, h⟩ | ⟨-, h⟩ := addSub_cases e a b sub trap d <;> rw [h]
  · trivial
  · exact resultOnly_legal d _

/-- The branch-mask table holds the two states of the mask (R98). -/
theorem selBranch_legal (b : Bool) : selBranch b = maskNormal ∨ selBranch b = maskSquashed := by
  cases b
  · exact .inl rfl
  · exact .inr rfl

theorem branch_legal (e : DeexLatch) (taken likely link : Bool) (imm : Imm) :
    (branch e taken likely link imm).Legal := by
  refine ⟨rfl, fun m hm => ?_⟩
  cases hm
  exact selBranch_legal _

theorem jump_legal (e : DeexLatch) (a : Value) (d : Dest) : (jump e a d).Legal := ⟨rfl, nofun⟩

/-- A load that faults writes no latch; one that does not posts an aligned READ beside a seed and a general-purpose
destination. -/
theorem load_legal (e : DeexLatch) (a : Value) (imm : Imm) (size : AccessSize) (z : Bool) (r : Reg) :
    (load e a imm size z (gprDest r)).Legal := by
  cases h : aligned size (effectiveAddress a imm)
  · rw [load_of_misaligned h]
    trivial
  · rw [load_of_aligned h]
    refine ⟨?_, nofun⟩
    cases z <;> simp [ExmemLatch.wf, BusRequest.wf, selLoadSeed, h]

/-- The word of a store lies within its lane mask (R46). -/
@[simp] theorem writeWord_and_laneMask (size : AccessSize) (ea : Addr) (b : Value) :
    writeWord size ea b &&& laneMask size ea = writeWord size ea b := by
  rw [writeWord, BitVec.and_assoc, BitVec.and_self]

/-- A store that faults writes no latch; one that does not posts an aligned WRITE with its lane mask and a word within
it. -/
theorem store_legal (e : DeexLatch) (a b : Value) (imm : Imm) (size : AccessSize) : (store e a b imm size).Legal := by
  cases h : aligned size (effectiveAddress a imm)
  · rw [store_of_misaligned h]
    trivial
  · rw [store_of_aligned h]
    refine ⟨?_, nofun⟩
    simp [ExmemLatch.wf, BusRequest.wf, h]

/-- Every instruction's outcome is legal. -/
theorem HandlerShape.legal {s : State} {i : Instr} {o : HandlerOutcome} (h : HandlerShape s i o) : o.Legal := by
  cases h with
  | addSub a b sub trap r => exact addSub_legal ..
  | result r v => exact resultOnly_legal ..
  | branch taken likely link imm => exact branch_legal ..
  | jump a r => exact jump_legal ..
  | load a imm size z r => exact load_legal ..
  | store a b imm size => exact store_legal ..
  | moveToControl rt rd => exact resultOnly_legal ..

/-! ## The invariant -/

theorem DeexLatch.wf_iff (e : DeexLatch) :
    e.wf = true ↔ (e.iwSquashMask = maskNormal ∨ e.iwSquashMask = maskSquashed) ∧ e.opcodeId = decodeId e.iw := by
  simp [DeexLatch.wf]

theorem State.inv_prime {s : State} (h : s.Inv) : s.prime.Inv := by simpa [State.Inv] using h

theorem State.inv_endRun {s : State} (h : s.Inv) : s.endRun.Inv := h

theorem State.inv_takeFault {s : State} (f : FaultInfo) (h : s.Inv) : (s.takeFault f).Inv := h

/-- The latch load makes the latch legal whatever it held: the mask NORMAL, the opcode id that of the masked word. -/
theorem State.inv_loadDeex {s : State} (w : IWord) (h : s.Inv) : (s.loadDeex w).Inv := by
  obtain ⟨hmem, -, hexmem, htext⟩ := h
  exact ⟨hmem, (DeexLatch.wf_iff _).2 ⟨.inl rfl, rfl⟩, hexmem, htext⟩

/-- Committing legal latch writes and retiring the instruction keeps the invariant. -/
theorem State.inv_retire_commit {s u : State} {w : LatchWrites} (hw : (HandlerOutcome.ok w).Legal)
    (hu : s.commit w = .ok u) (h : s.Inv) : (u.retire w).Inv := by
  obtain ⟨hmem, hdeex, -, htext⟩ := h
  obtain ⟨hexmem, hmask⟩ := hw
  obtain ⟨-, -, udeex, -, utext, -⟩ := State.commit_frame hu
  obtain ⟨hold, hid⟩ := (DeexLatch.wf_iff _).1 hdeex
  refine ⟨(State.wf_commit hu hmem : u.mem.wf = true), (DeexLatch.wf_iff _).2 ?_, hexmem, by simpa [utext] using htext⟩
  rw [State.retire_deex, udeex]
  refine ⟨?_, hid⟩
  cases hm : w.squashMask with
  | none => exact hold
  | some m => exact hmask m hm

/-- Completing a legal outcome keeps the invariant. -/
theorem State.inv_complete {s t : State} {o : HandlerOutcome} (ho : o.Legal) (h : s.complete o = .next t)
    (hs : s.Inv) : t.Inv := by
  obtain ⟨f, -, rfl⟩ | ⟨w, u, rfl, hu, rfl⟩ := State.complete_next h
  · exact State.inv_takeFault f hs
  · exact State.inv_retire_commit ho hu hs

/-- Handling the word in the latch keeps the invariant. -/
theorem handleLoaded_inv {s t : State} (h : handleLoaded s = .next t) (hs : s.Inv) : t.Inv := by
  obtain ⟨e, -, rfl⟩ | ⟨i, o, -, ho, hc⟩ := handleLoaded_next h
  · exact State.inv_takeFault _ hs
  · exact State.inv_complete ho.legal hc hs

/-- Settles O55: ending the run and the latch load keep the invariant, and so does completing an outcome of any of the
handler shapes, all of which are legal. -/
theorem stepKeepsInvariant : Obligations.StepKeepsInvariant := by
  intro s t hs h
  obtain ⟨-, ⟨-, rfl⟩ | ⟨-, w, -, hw⟩⟩ := step_next h
  · exact State.inv_endRun (State.inv_prime hs)
  · exact handleLoaded_inv hw (State.inv_loadDeex w (State.inv_prime hs))

/-- Settles O56. -/
theorem resetMeetsInvariant : Obligations.ResetMeetsInvariant :=
  ⟨State.wf_reset, by decide, rfl, nofun⟩

/-! ## Control registers -/

/-- If a handler's outcome names a control register, the instruction is MTC0. -/
theorem HandlerShape.control {s : State} {i : Instr} {o : HandlerOutcome} (h : HandlerShape s i o)
    {w : LatchWrites} (hw : o = .ok w) (hd : w.dest.getLsbD 5 = true) :
    ∃ rt rd, i = .mtc0 rt rd ∧ o = resultOnly (crDest rd) (sext32 (s.readX rt)) := by
  cases h with
  | moveToControl rt rd => exact ⟨rt, rd, rfl, rfl⟩
  | addSub a b sub trap r =>
    obtain ⟨-, -, h⟩ | ⟨-, h⟩ := addSub_cases s.deex a b sub trap (gprDest r) <;> rw [h] at hw <;> cases hw
    simp at hd
  | result r v => cases hw; simp at hd
  | branch taken likely link imm => cases hw; cases link <;> simp at hd
  | jump a r => cases hw; simp at hd
  | load a imm size z r =>
    cases ha : aligned size (effectiveAddress a imm)
    · rw [load_of_misaligned ha] at hw
      cases hw
    · rw [load_of_aligned ha] at hw
      cases hw
      simp at hd
  | store a b imm size =>
    cases ha : aligned size (effectiveAddress a imm)
    · rw [store_of_misaligned ha] at hw
      cases hw
    · rw [store_of_aligned ha] at hw
      cases hw
      simp at hd

/-- A commit changes at most the control register that the destination index names. -/
theorem State.commit_changes_control {s t : State} {w : LatchWrites} {r : Reg} (h : s.commit w = .ok t)
    (hr : t.readC r ≠ s.readC r) : w.dest = crDest r := by
  have key : ∀ v, (s.writeDest w.dest v).readC r ≠ s.readC r → w.dest = crDest r := by
    intro v hv
    by_contra hd
    obtain ⟨-, hc⟩ := State.regsAfter_writeDest s w.dest v
    exact hv ((hc r).trans (if_neg hd))
  obtain ⟨-, rfl⟩ | ⟨q, -, -, -, rfl⟩ | ⟨q, -, -, -, -, rfl⟩ := State.commit_ok h
  · exact key _ hr
  · exact key _ hr
  · exact absurd (State.readC_congr (State.setBytes_c s _) r) hr

/-- If completing an instruction's outcome changes a control register, the instruction is MTC0 to that register, which
then holds the value moved. -/
theorem HandlerShape.complete_changes_control {s t : State} {i : Instr} {o : HandlerOutcome} {r : Reg}
    (ho : HandlerShape s i o) (h : s.complete o = .next t) (hr : t.readC r ≠ s.readC r) :
    ∃ rt, i = .mtc0 rt r ∧ t.readC r = sext32 (s.readX rt) := by
  obtain ⟨f, -, rfl⟩ | ⟨w, u, hw, hu, rfl⟩ := State.complete_next h
  · exact absurd rfl hr
  · have hd : w.dest = crDest r := State.commit_changes_control hu hr
    obtain ⟨rt, rd, rfl, rfl⟩ := ho.control hw ((crDest_eq_iff _ _).1 hd).1
    cases hw
    cases hu
    obtain rfl : rd = r := ((crDest_eq_iff _ _).1 rfl).2.symm.trans ((crDest_eq_iff _ _).1 hd).2
    obtain ⟨-, hc⟩ := State.regsAfter_writeDest s (crDest rd) (sext32 (s.readX rt))
    exact ⟨rt, rfl, (hc rd).trans (if_pos rfl)⟩

/-- Settles O42: neither the end of a run nor a fault writes a register, and of the outcomes that complete only MTC0's
names a control register. -/
theorem onlyMtc0ChangesControl : Obligations.OnlyMtc0ChangesControl := by
  intro s t r h hr
  obtain ⟨-, ⟨-, rfl⟩ | ⟨-, w, -, hw⟩⟩ := step_next h
  · exact absurd (State.readC_congr (State.prime_c s) r) hr
  · have hx : (s.prime.loadDeex w).x = s.x := State.prime_x s
    have hc : (s.prime.loadDeex w).c = s.c := State.prime_c s
    rw [← State.readC_congr hc] at hr
    obtain ⟨e, -, rfl⟩ | ⟨i, o, hi, ho, ht⟩ := handleLoaded_next hw
    · exact absurd rfl hr
    · obtain ⟨rt, rfl, hv⟩ := ho.complete_changes_control ht hr
      rw [State.readX_congr hx] at hv
      exact ⟨rt, State.complete_deex_iw ht ▸ hi, hv⟩

/-! ## The fetch and the latch load -/

/-- With nothing fetched, priming takes the word at FETCH.next_pc (R33). -/
theorem State.prime_of_none {s : State} (h : s.pc = none) :
    s.prime = { s with pc := some s.fetchNextPc, fetchNextPc := s.fetchNextPc + 4 } := by
  unfold State.prime
  rw [h]

/-- A step primes first, so priming before it makes no difference. -/
theorem step_prime (s : State) : step s.prime = step s := by
  simp [step, State.prime_of_some (State.prime_pc s)]

/-- Settles O58. -/
theorem firstFetchIsNextPc : Obligations.FirstFetchIsNextPc := by
  intro s h
  rw [← State.prime_of_none h, step_prime]

/-- Settles O47: the step is the handling of the word loaded, and the latch load gives the latch written out. -/
theorem stepRunsDecodedInstruction : Obligations.StepRunsDecodedInstruction := by
  rintro s p w i ⟨hrun, hpc, hend, hw⟩ hi
  have hprime : s.prime = s := State.prime_of_some hpc
  have hload : s.loadDeex w = { s with deex := ⟨w &&& s.deex.iwSquashMask, maskNormal, i.opcodeId, p⟩ } := by
    rw [State.loadDeex, decodeId_of_ok hi, State.fetchAddr_of_some hpc]
  calc step s
      = handleLoaded (s.loadDeex w) := by
        rw [step_of_fetch hrun (hprime.symm ▸ hend) (hprime.symm ▸ hw), hprime]
    _ = exec i (s.loadDeex w) := handleLoaded_of_ok hi
    _ = _ := by rw [hload]; rfl

/-! ## Reset and the register files -/

/-- Settles O57. -/
theorem resetLatches : Obligations.ResetLatches := ⟨rfl, rfl, rfl, rfl, rfl, rfl⟩

/-- A register write touches the register files alone. -/
theorem State.writeDest_restore (s : State) (d : Dest) (v : Value) :
    { s.writeDest d v with x := s.x, c := s.c } = s := by
  unfold State.writeDest State.writeX
  split
  · rfl
  · split <;> rfl

/-- A write to index 0 is discarded (R19, R20). -/
@[simp] theorem State.writeDest_zero (s : State) (v : Value) : s.writeDest 0#6 v = s := rfl

/-- Settles O59. -/
theorem writeContract : Obligations.WriteContract := fun s d v =>
  ⟨State.regsAfter_writeDest s d v, State.writeDest_restore s d v, State.writeDest_zero s v, State.readX_zero s⟩

end Sys2Proof.Machine

/-! # Memory (20_memory.md): the bytes, the combination of loaded data, loads and stores, the fetch -/

namespace Sys2Proof.Machine

/-! ## MemRead and MemWrite (R44) -/

/-- The bytes after a halfword is written; its two addresses differ. -/
theorem State.byteAt_memWrite_half (s : State) (a b : Addr) (v : Value) :
    (s.memWrite a v .half).byteAt b =
      if b = a then v.extractLsb' 8 8 else if b = a + 1 then v.extractLsb' 0 8 else s.byteAt b := by
  simp only [State.memWrite, State.byteAt_setByte]
  by_cases h0 : b = a
  · simp [h0]
  · simp only [if_neg h0]

/-- The bytes after a word is written; its four addresses differ. -/
theorem State.byteAt_memWrite_word (s : State) (a b : Addr) (v : Value) :
    (s.memWrite a v .word).byteAt b =
      if b = a then v.extractLsb' 24 8 else if b = a + 1 then v.extractLsb' 16 8
        else if b = a + 2 then v.extractLsb' 8 8 else if b = a + 3 then v.extractLsb' 0 8 else s.byteAt b := by
  simp only [State.memWrite, State.byteAt_setByte]
  by_cases h0 : b = a
  · simp [h0]
  by_cases h1 : b = a + 1
  · simp [h1]
  by_cases h2 : b = a + 2
  · simp [h2]
  simp only [if_neg h0, if_neg h1, if_neg h2]

/-- The halfword of its own two bytes. -/
@[simp] theorem bytesHalf_extract (h : BitVec 16) : bytesHalf (h.extractLsb' 8 8) (h.extractLsb' 0 8) = h := by
  ext i hi
  interval_cases i <;> simp [bytesHalf, BitVec.getLsbD_eq_getElem]

/-- Reading after writing gives the low bits of the value (R44). -/
theorem State.memRead_memWrite (s : State) (a : Addr) (v : Value) (size : AccessSize) :
    (s.memWrite a v size).memRead a size = (v.setWidth size.bits).setWidth 64 := by
  cases size with
  | byte =>
    simp only [State.memRead, State.memWrite, State.byteAt_setByte, if_true]
    rfl
  | half =>
    have h := bytesHalf_extract (v.setWidth 16)
    simp only [BitVec.extractLsb'_setWidth_of_le, Nat.reduceAdd, Nat.reduceLeDiff] at h
    simp [State.memRead, State.byteAt_memWrite_half, h, AccessSize.bits, AccessSize.bytes]
  | word =>
    have h := bytesWord_wordBytes (v.setWidth 32)
    simp only [BitVec.extractLsb'_setWidth_of_le, Nat.reduceAdd, Nat.reduceLeDiff] at h
    simp [State.memRead, State.byteAt_memWrite_word, h, AccessSize.bits, AccessSize.bytes]

/-- Settles O34: the bytes read join to their number, and each clause on a write is a lemma above. -/
theorem memoryPrimitives : Obligations.MemoryPrimitives := by
  intro s a b v
  refine ⟨?_, ?_, ?_, s.byteAt_setByte a b _, s.byteAt_memWrite_half a b v, s.byteAt_memWrite_word a b v,
    s.memRead_memWrite a v .byte, s.memRead_memWrite a v .half, s.memRead_memWrite a v .word⟩
  · exact BitVec.toNat_setWidth_of_le (by decide)
  · rw [← toNat_bytesHalf]; exact BitVec.toNat_setWidth_of_le (by decide)
  · rw [← toNat_bytesWord]; exact BitVec.toNat_setWidth_of_le (by decide)

/-- Writing the lanes that an aligned store selects is MemWrite (R46). -/
theorem State.setBytes_selectedLanes (s : State) {size : AccessSize} {ea : Addr} (b : Value)
    (ha : aligned size ea = true) :
    s.setBytes (selectedLanes ⟨ea, .write, size, writeWord size ea b, laneMask size ea⟩) = s.memWrite ea b size := by
  rw [selectedLanes_of_aligned b ha]
  cases size <;> rfl

/-- Settles O35, by what the lanes of an aligned store are. -/
theorem laneWriteIsMemWrite : Obligations.LaneWriteIsMemWrite := fun s _ _ b ha => s.setBytes_selectedLanes b ha

/-! ## The combination of loaded data with its seed (R47) -/

/-- An access is at least one bit and at most a word wide. -/
theorem AccessSize.bits_le (size : AccessSize) : 1 ≤ size.bits ∧ size.bits ≤ 32 := by cases size <;> decide

/-- `LowMask` has its low bits set. -/
theorem getLsbD_lowMask {w i : Nat} (hw : w < 64) : (lowMask w).getLsbD i = decide (i < w) := by
  have h : (lowMask w).toNat = 2 ^ w - 1 := by
    have hlt : 2 ^ w < 2 ^ 64 := Nat.pow_lt_pow_right (by decide) hw
    have hpos : 0 < 2 ^ w := Nat.two_pow_pos w
    have hone : (1#64 <<< w).toNat = 2 ^ w := by simpa [Nat.shiftLeft_eq] using hlt
    rw [lowMask, BitVec.toNat_sub_of_le (by rw [BitVec.le_def, hone]; exact hpos), hone]
    rfl
  rw [BitVec.getLsbD, h, Nat.testBit_two_pow_sub_one]

/-- The two seeds of a load (R99). -/
@[simp] theorem selLoadSeed_false : selLoadSeed false = ones64 := rfl

@[simp] theorem selLoadSeed_true : selLoadSeed true = 0#64 := rfl

/-- With the seed 0 the data is zero-extended. -/
theorem loaded_zero (size : AccessSize) (d : Value) : loaded size d 0#64 = d := by simp [loaded]

/-- `Rep` has every bit equal to the one repeated. -/
theorem getLsbD_repBit (b : Bool) {i : Nat} (hi : i < 64) : (repBit b).getLsbD i = b := by
  cases b
  · simp [repBit]
  · exact (BitVec.getLsbD_allOnes (v := 64)).trans (decide_eq_true hi)

/-- With the all-one seed the data is sign-extended. -/
theorem loaded_ones64 (size : AccessSize) (d : BitVec size.bits) :
    loaded size (d.setWidth 64) ones64 = d.signExtend 64 := by
  obtain ⟨hpos, hle⟩ := size.bits_le
  have hmsb : (d.setWidth 64).getLsbD (size.bits - 1) = d.msb := by
    rw [BitVec.getLsbD_setWidth, BitVec.msb_eq_getLsbD_last, decide_eq_true (by omega), Bool.true_and]
  apply BitVec.eq_of_getLsbD_eq
  intro i hi
  rw [loaded, hmsb, BitVec.getLsbD_signExtend]
  have hones : ones64.getLsbD i = true := getLsbD_repBit true hi
  simp only [BitVec.getLsbD_or, BitVec.getLsbD_and, BitVec.getLsbD_not, BitVec.getLsbD_setWidth, hones, hi,
    getLsbD_lowMask (show size.bits < 64 by omega), getLsbD_repBit d.msb hi]
  by_cases h : i < size.bits
  · simp [h]
  · simp [h, BitVec.getLsbD_of_ge d i (by omega)]

/-- Settles O36: the two seeds at each size. -/
theorem loadedCombination : Obligations.LoadedCombination :=
  ⟨fun d => ⟨loaded_ones64 .byte d, loaded_zero .byte _⟩, fun d => ⟨loaded_ones64 .half d, loaded_zero .half _⟩,
    fun d => ⟨loaded_ones64 .word d, loaded_zero .word _⟩⟩

/-! ## Completing a load or a store (R41, R46, R47) -/

/-- `ea mod n == 0` (R48). -/
theorem aligned_iff {size : AccessSize} {ea : Addr} : aligned size ea = true ↔ ea.toNat % size.bytes = 0 := by
  simp [aligned]

/-- A byte access is always aligned. -/
theorem aligned_byte (ea : Addr) : aligned .byte ea = true := aligned_iff.2 (Nat.mod_one _)

section Completion

variable {s : State} {e : DeexLatch} {a : Value} {imm : Imm} {size : AccessSize}

/-- An aligned load of which every byte is held commits the combination of its data with its seed. -/
theorem State.complete_load (hal : aligned size (effectiveAddress a imm) = true)
    (hheld : s.firstAbsent (accessAddrs (effectiveAddress a imm) size) = none) (z : Bool) (d : Dest) :
    ∃ w, s.complete (load e a imm size z d) = .next ((s.writeDest d
      (loaded size (s.memRead (effectiveAddress a imm) size) (selLoadSeed z))).retire w) := by
  rw [load_of_aligned hal]
  simp only [State.complete, State.commit, State.commitRead, hheld]
  exact ⟨_, rfl⟩

/-- An aligned load is refused at its first absent byte. -/
theorem State.complete_load_absent (hal : aligned size (effectiveAddress a imm) = true) {x : Addr}
    (hx : s.firstAbsent (accessAddrs (effectiveAddress a imm) size) = some x) (z : Bool) (d : Dest) :
    s.complete (load e a imm size z d) = .refused (.addressAbsent x) := by
  rw [load_of_aligned hal]
  simp only [State.complete, State.commit, State.commitRead, hx]

/-- An aligned store is refused at its first byte in the program text (R56). -/
theorem State.complete_store_inText (hal : aligned size (effectiveAddress a imm) = true) {x : Addr}
    (hx : s.firstInText (accessAddrs (effectiveAddress a imm) size) = some x) (b : Value) :
    s.complete (store e a b imm size) = .refused (.storeIntoText x) := by
  rw [store_of_aligned hal]
  simp only [State.complete, State.commit, State.commitWrite, selectedLanes_addrs b hal, hx]

/-- An aligned store outside the program text is refused at its first absent byte. -/
theorem State.complete_store_absent (hal : aligned size (effectiveAddress a imm) = true) {x : Addr}
    (htext : s.firstInText (accessAddrs (effectiveAddress a imm) size) = none)
    (hx : s.firstAbsent (accessAddrs (effectiveAddress a imm) size) = some x) (b : Value) :
    s.complete (store e a b imm size) = .refused (.addressAbsent x) := by
  rw [store_of_aligned hal]
  simp only [State.complete, State.commit, State.commitWrite, selectedLanes_addrs b hal, htext, hx]

/-- A store that answers a next state has faulted, or was aligned, had every byte held, and is MemWrite. -/
theorem State.complete_store_next {t : State} {b : Value} (h : s.complete (store e a b imm size) = .next t) :
    (∃ f, t = s.takeFault f) ∨
    (aligned size (effectiveAddress a imm) = true ∧
      s.firstAbsent (accessAddrs (effectiveAddress a imm) size) = none ∧
      ∃ w, t = (s.memWrite (effectiveAddress a imm) b size).retire w) := by
  cases hal : aligned size (effectiveAddress a imm) with
  | false =>
    rw [store_of_misaligned hal] at h
    cases h
    exact .inl ⟨_, rfl⟩
  | true =>
    rw [store_of_aligned hal] at h
    obtain ⟨f, hf, -⟩ | ⟨w, u, hw, hu, rfl⟩ := State.complete_next h
    · cases hf
    · cases hw
      obtain ⟨hr, -⟩ | ⟨r, hr, hk, -⟩ | ⟨r, hr, -, -, hheld, rfl⟩ := State.commit_ok hu
      · cases hr
      · cases hr; cases hk
      · cases hr
        rw [selectedLanes_addrs b hal] at hheld
        rw [State.setBytes_selectedLanes s b hal]
        exact .inr ⟨rfl, hheld, _, rfl⟩

end Completion

/-! ## A load after a store (R53) -/

/-- Which addresses are held depends on the launch alone. -/
theorem State.firstAbsent_congr {s t : State} (htext : t.text = s.text) (hheld : t.held = s.held) (l : List Addr) :
    t.firstAbsent l = s.firstAbsent l := by
  simp only [State.firstAbsent, State.holds, State.inText, htext, hheld]

/-! MemWrite writes memory alone. -/

@[simp] theorem State.memWrite_x (s : State) (a : Addr) (v : Value) (size : AccessSize) :
    (s.memWrite a v size).x = s.x := by cases size <;> rfl

@[simp] theorem State.memWrite_text (s : State) (a : Addr) (v : Value) (size : AccessSize) :
    (s.memWrite a v size).text = s.text := by cases size <;> rfl

@[simp] theorem State.memWrite_held (s : State) (a : Addr) (v : Value) (size : AccessSize) :
    (s.memWrite a v size).held = s.held := by cases size <;> rfl

@[simp] theorem State.memRead_retire (s : State) (w : LatchWrites) (a : Addr) (size : AccessSize) :
    (s.retire w).memRead a size = s.memRead a size := by
  cases size <;> rfl

/-- What a register load delivers: the register holds the value written, 0 if it is register 0 (R20). -/
theorem State.readX_writeDest_gprDest (s : State) (r : Reg) (v : Value) :
    (s.writeDest (gprDest r) v).readX r = if r = 0#5 then 0#64 else v := by
  obtain ⟨hx, -⟩ := State.regsAfter_writeDest s (gprDest r) v
  rw [hx r]
  by_cases h : r = 0#5 <;> simp [h]

/-- After a store that leaves the machine running, the load of its size from its place delivers the bits stored,
combined with the load's seed. -/
theorem delivers_after_store {s t : State} {rs base rd : Reg} {imm off : Imm} {v : Value} {size : AccessSize}
    {i : Instr} {z : Bool}
    (hstore : s.complete (store s.deex (s.readX rs) v imm size) = .next t) (hrun : t.status = .running)
    (hea : s.readX base + off.signExtend 64 = s.readX rs + imm.signExtend 64)
    (hload : exec i t = t.complete (load t.deex (t.readX base) off size z (gprDest rd))) :
    Delivers i t rd (loaded size ((v.setWidth size.bits).setWidth 64) (selLoadSeed z)) := by
  obtain ⟨f, rfl⟩ | ⟨hal, hheld, w, ht⟩ := State.complete_store_next hstore
  · cases hrun
  have hbase : effectiveAddress (t.readX base) off = effectiveAddress (s.readX rs) imm := by
    rw [State.readX_congr (s := s) (by simp [ht])]
    exact hea
  have hread : t.memRead (effectiveAddress (s.readX rs) imm) size = (v.setWidth size.bits).setWidth 64 := by
    rw [ht, State.memRead_retire, State.memRead_memWrite]
  obtain ⟨w', hw'⟩ := State.complete_load (s := t) (e := t.deex) (hbase.symm ▸ hal)
    (by rw [hbase, State.firstAbsent_congr (s := s) (by simp [ht]) (by simp [ht]), hheld]) z (gprDest rd)
  rw [hbase, hread] at hw'
  exact ⟨_, hload.trans hw', by simpa using hrun, State.readX_writeDest_gprDest t rd _⟩

/-- The signed and the unsigned load of the store's size deliver the two extensions of the bits stored. -/
theorem deliver_extensions_after_store {s t : State} {rs base rd : Reg} {imm off : Imm} {v : Value} {size : AccessSize}
    {i j : Instr} (hstore : s.complete (store s.deex (s.readX rs) v imm size) = .next t) (hrun : t.status = .running)
    (hea : s.readX base + off.signExtend 64 = s.readX rs + imm.signExtend 64)
    (hi : exec i t = t.complete (load t.deex (t.readX base) off size false (gprDest rd)))
    (hj : exec j t = t.complete (load t.deex (t.readX base) off size true (gprDest rd))) :
    Delivers i t rd ((v.setWidth size.bits).signExtend 64) ∧ Delivers j t rd ((v.setWidth size.bits).setWidth 64) := by
  have hsigned := delivers_after_store hstore hrun hea hi
  have hunsigned := delivers_after_store hstore hrun hea hj
  rw [selLoadSeed_false, loaded_ones64] at hsigned
  rw [selLoadSeed_true, loaded_zero] at hunsigned
  exact ⟨hsigned, hunsigned⟩

/-- Settles O37: one fact at three sizes. -/
theorem loadAfterStore : Obligations.LoadAfterStore := fun _ _ _ _ _ _ _ _ hea hrun =>
  ⟨fun h => deliver_extensions_after_store (size := .word) h hrun hea rfl rfl,
    fun h => deliver_extensions_after_store (size := .half) h hrun hea rfl rfl,
    fun h => deliver_extensions_after_store (size := .byte) h hrun hea rfl rfl⟩

/-! ## Refused accesses (R56, U16) -/

/-- An aligned store of which a byte lies in the program text is refused at such a byte. -/
theorem store_refused_inText {s : State} {e : DeexLatch} {a b : Value} {imm : Imm} {size : AccessSize}
    (hal : aligned size (effectiveAddress a imm) = true)
    (h : ∃ x ∈ accessAddrs (effectiveAddress a imm) size, s.inText x = true) :
    ∃ x ∈ accessAddrs (effectiveAddress a imm) size, s.inText x = true ∧
      s.complete (store e a b imm size) = .refused (.storeIntoText x) := by
  obtain ⟨x, hx⟩ := Option.isSome_iff_exists.1 (List.find?_isSome.2 h)
  exact ⟨x, List.mem_of_find?_eq_some hx, List.find?_some hx, State.complete_store_inText hal hx b⟩

/-- Settles O38: the one byte of SB, and by the general fact some byte of SH and SW, is found in the text. -/
theorem storeIntoTextRefused : Obligations.StoreIntoTextRefused := by
  rintro rt rs imm s ea rfl
  refine ⟨fun h => ?_, fun hal h => ?_, fun hal h => ?_⟩
  · exact State.complete_store_inText (aligned_byte _) (List.find?_cons_of_pos h) _
  · exact store_refused_inText (size := .half) (aligned_iff.2 hal) h
  · exact store_refused_inText (size := .word) (aligned_iff.2 hal) h

section RefusesAbsent

variable {i : Instr} {s : State} {a : Value} {imm : Imm} {size : AccessSize}

/-- An access of which a byte is not held has a first such byte. -/
theorem State.exists_firstAbsent {l : List Addr} (h : ∃ x ∈ l, s.holds x = false) :
    ∃ x, s.firstAbsent l = some x :=
  Option.isSome_iff_exists.1 (List.find?_isSome.2 (by simpa using h))

/-- An instruction of the load shape is refused at its first absent byte. -/
theorem load_refusesAbsent {z : Bool} {d : Dest} (hal : aligned size (effectiveAddress a imm) = true)
    (h : ∃ x ∈ accessAddrs (effectiveAddress a imm) size, s.holds x = false)
    (hi : exec i s = s.complete (load s.deex a imm size z d)) :
    RefusesAbsent i s (effectiveAddress a imm) size := by
  obtain ⟨x, hx⟩ := State.exists_firstAbsent h
  exact ⟨x, hx, hi.trans (State.complete_load_absent hal hx z d)⟩

/-- An instruction of the store shape outside the program text is refused at its first absent byte. -/
theorem store_refusesAbsent {b : Value} (hal : aligned size (effectiveAddress a imm) = true)
    (h : ∃ x ∈ accessAddrs (effectiveAddress a imm) size, s.holds x = false)
    (htext : ∀ x ∈ accessAddrs (effectiveAddress a imm) size, s.inText x = false)
    (hi : exec i s = s.complete (store s.deex a b imm size)) :
    RefusesAbsent i s (effectiveAddress a imm) size := by
  obtain ⟨x, hx⟩ := State.exists_firstAbsent h
  have hnone : s.firstInText (accessAddrs (effectiveAddress a imm) size) = none :=
    List.find?_eq_none.2 (by simpa using htext)
  exact ⟨x, hx, hi.trans (State.complete_store_absent hal hnone hx b)⟩

end RefusesAbsent

/-- An address that is not held is not in the program text, which the launch memory holds. -/
theorem State.inText_of_not_holds {s : State} {a : Addr} (h : s.holds a = false) : s.inText a = false := by
  rw [State.holds, Bool.or_eq_false_iff] at h
  exact h.1

/-- Settles O39: the load and the store shape are refused at every size; a byte that is not held is not in the text. -/
theorem absentAddressRefused : Obligations.AbsentAddressRefused := by
  rintro rt rs imm s ea rfl
  refine ⟨fun h => ?_, fun hal h => ?_, fun hal h => ?_⟩
  · have hx : ∃ x ∈ accessAddrs (effectiveAddress (s.readX rs) imm) .byte, s.holds x = false :=
      ⟨_, List.mem_singleton_self _, h⟩
    have ht : ∀ x ∈ accessAddrs (effectiveAddress (s.readX rs) imm) .byte, s.inText x = false := by
      intro x hx
      rw [List.mem_singleton.1 hx]
      exact State.inText_of_not_holds h
    exact ⟨load_refusesAbsent (aligned_byte _) hx rfl, load_refusesAbsent (aligned_byte _) hx rfl,
      store_refusesAbsent (aligned_byte _) hx ht rfl⟩
  · have hal : aligned .half (effectiveAddress (s.readX rs) imm) = true := aligned_iff.2 hal
    exact ⟨load_refusesAbsent hal h rfl, load_refusesAbsent hal h rfl, fun ht => store_refusesAbsent hal h ht rfl⟩
  · have hal : aligned .word (effectiveAddress (s.readX rs) imm) = true := aligned_iff.2 hal
    exact ⟨load_refusesAbsent hal h rfl, load_refusesAbsent hal h rfl, fun ht => store_refusesAbsent hal h ht rfl⟩

/-! ## The canonical form -/

/-- If a memory in canonical form reads like one that lists nothing below `l`, its first address is not below `l`. -/
theorem Memory.le_head_of_read_eq {lo k l : Nat} {v : Byte} {m n : Memory}
    (hm : Memory.wfFrom lo ((k, v) :: m) = true) (hn : n.wfFrom l = true)
    (h : ∀ a, a < 2 ^ 64 → Memory.read ((k, v) :: m) a = n.read a) : l ≤ k := by
  obtain ⟨-, hk, hv, -⟩ := Memory.wfFrom_cons.1 hm
  by_contra hlt
  have hr := h k hk
  rw [Memory.read_cons, if_pos rfl, Memory.read_of_lt hn (by omega)] at hr
  exact hv hr

/-- A memory in canonical form that reads as unlisted everywhere lists nothing. -/
theorem Memory.eq_nil_of_read_eq {lo : Nat} {m : Memory} (hm : m.wfFrom lo = true)
    (h : ∀ a, a < 2 ^ 64 → m.read a = Memory.read [] a) : m = [] := by
  cases m with
  | nil => rfl
  | cons c m => exact absurd (Memory.le_head_of_read_eq (l := c.1 + 1) hm rfl h) (by omega)

/-- In the canonical form reads determine the list: the first addresses agree, each being no lower than the other. -/
theorem Memory.eq_of_read_eq {lo : Nat} {m n : Memory} (hm : m.wfFrom lo = true) (hn : n.wfFrom lo = true)
    (h : ∀ a, a < 2 ^ 64 → m.read a = n.read a) : m = n := by
  induction m generalizing lo n with
  | nil => exact (Memory.eq_nil_of_read_eq hn fun a ha => (h a ha).symm).symm
  | cons c m ih =>
    obtain ⟨k, v⟩ := c
    cases n with
    | nil => exact Memory.eq_nil_of_read_eq hm h
    | cons d n =>
      obtain ⟨l, w⟩ := d
      obtain ⟨-, hk, hv, hm'⟩ := Memory.wfFrom_cons.1 hm
      obtain ⟨-, hl, hw, hn'⟩ := Memory.wfFrom_cons.1 hn
      have hlk : l ≤ k := Memory.le_head_of_read_eq hm (Memory.wfFrom_cons.2 ⟨le_rfl, hl, hw, hn'⟩) h
      have hkl : k ≤ l := Memory.le_head_of_read_eq hn (Memory.wfFrom_cons.2 ⟨le_rfl, hk, hv, hm'⟩)
        fun a ha => (h a ha).symm
      obtain rfl : k = l := le_antisymm hkl hlk
      have hvw : v = w := by simpa [Memory.read_cons] using h k hk
      have htail : ∀ a, a < 2 ^ 64 → Memory.read m a = Memory.read n a := by
        intro a ha
        by_cases hak : k = a
        · rw [Memory.read_of_lt hm' (by omega), Memory.read_of_lt hn' (by omega)]
        · simpa [Memory.read_cons, hak] using h a ha
      rw [hvw, ih hm' hn' htail]

/-- Settles O40. -/
theorem canonicalMemoriesEqual : Obligations.CanonicalMemoriesEqual := fun _ _ hm hn h => Memory.eq_of_read_eq hm hn h

/-! ## The fetch (R49, R273) -/

/-- The fetch's alignment test in terms of the address. -/
theorem extractLsb'_two_ne_zero_iff (a : Addr) : (a.extractLsb' 0 2 != 0) = true ↔ a.toNat % 4 ≠ 0 := by
  rw [bne_iff_ne, ne_eq, ← BitVec.toNat_inj]
  simp

theorem State.fetchWord_of_misaligned {s : State} (h : s.fetchAddr.toNat % 4 ≠ 0) :
    s.fetchWord = .error (.fetchMisaligned s.fetchAddr) :=
  if_pos ((extractLsb'_two_ne_zero_iff _).2 h)

theorem State.fetchWord_of_aligned {s : State} (h : s.fetchAddr.toNat % 4 = 0) :
    s.fetchWord = if s.inText s.fetchAddr then .ok (low32 (s.memRead s.fetchAddr .word))
      else .error (.fetchOutsideText s.fetchAddr) := by
  rw [State.fetchWord, if_neg fun h' => (extractLsb'_two_ne_zero_iff _).1 h' h]
  cases s.inText s.fetchAddr <;> rfl

/-- A running machine that has not ended is refused when its fetch is. -/
theorem step_of_fetch_error {s : State} {r : Refusal} (hs : s.status = .running) (he : s.prime.atEnd = false)
    (hr : s.prime.fetchWord = .error r) : step s = .refused r := by
  simp [step, stepRunning, hs, he, hr]

/-- Settles O48: the three clauses are the fetch at an aligned address of the text, at a misaligned one and at an aligned
one outside the text. -/
theorem fetchContract : Obligations.FetchContract := by
  intro s p hp
  obtain rfl : s.fetchAddr = p := State.fetchAddr_of_some hp
  have hprime : s.prime = s := State.prime_of_some hp
  refine ⟨fun hal ht => ?_, fun hs he hmis => ?_, fun hs he hal x hx hout => ?_⟩
  · rw [State.fetchWord_of_aligned hal, if_pos ht]
    simp [low32, State.memRead]
  · exact step_of_fetch_error hs (hprime.symm ▸ he) (hprime.symm ▸ State.fetchWord_of_misaligned hmis)
  · have ht : s.inText s.fetchAddr = false := by simpa [State.inText, hx, TextRange.contains] using hout
    have hw := State.fetchWord_of_aligned hal
    rw [ht] at hw
    exact step_of_fetch_error hs (hprime.symm ▸ he) (hprime.symm ▸ hw)

end Sys2Proof.Machine

/-! # Encoding (30_encoding.md): what decode answers, for every word -/

namespace Sys2Proof

/-! ## An instruction's row and operands, read from a word -/

/-- The instruction of the same row whose operands are the fields of the word (R61, R81). -/
def Instr.reread (w : IWord) : Instr → Instr
  | .sll _ _ _ => .sll (fieldRd w) (fieldRt w) (fieldSa w).toNat
  | .srl _ _ _ => .srl (fieldRd w) (fieldRt w) (fieldSa w).toNat
  | .jr _ => .jr (fieldRs w)
  | .jalr _ _ => .jalr (fieldRd w) (fieldRs w)
  | .add _ _ _ => .add (fieldRd w) (fieldRs w) (fieldRt w)
  | .addu _ _ _ => .addu (fieldRd w) (fieldRs w) (fieldRt w)
  | .sub _ _ _ => .sub (fieldRd w) (fieldRs w) (fieldRt w)
  | .subu _ _ _ => .subu (fieldRd w) (fieldRs w) (fieldRt w)
  | .and _ _ _ => .and (fieldRd w) (fieldRs w) (fieldRt w)
  | .or _ _ _ => .or (fieldRd w) (fieldRs w) (fieldRt w)
  | .xor _ _ _ => .xor (fieldRd w) (fieldRs w) (fieldRt w)
  | .bltz _ _ => .bltz (fieldRs w) (fieldImm w)
  | .bgez _ _ => .bgez (fieldRs w) (fieldImm w)
  | .bltzl _ _ => .bltzl (fieldRs w) (fieldImm w)
  | .bgezl _ _ => .bgezl (fieldRs w) (fieldImm w)
  | .bltzal _ _ => .bltzal (fieldRs w) (fieldImm w)
  | .bgezal _ _ => .bgezal (fieldRs w) (fieldImm w)
  | .bltzall _ _ => .bltzall (fieldRs w) (fieldImm w)
  | .bgezall _ _ => .bgezall (fieldRs w) (fieldImm w)
  | .beq _ _ _ => .beq (fieldRs w) (fieldRt w) (fieldImm w)
  | .bne _ _ _ => .bne (fieldRs w) (fieldRt w) (fieldImm w)
  | .blez _ _ => .blez (fieldRs w) (fieldImm w)
  | .bgtz _ _ => .bgtz (fieldRs w) (fieldImm w)
  | .addi _ _ _ => .addi (fieldRt w) (fieldRs w) (fieldImm w)
  | .addiu _ _ _ => .addiu (fieldRt w) (fieldRs w) (fieldImm w)
  | .andi _ _ _ => .andi (fieldRt w) (fieldRs w) (fieldImm w)
  | .ori _ _ _ => .ori (fieldRt w) (fieldRs w) (fieldImm w)
  | .xori _ _ _ => .xori (fieldRt w) (fieldRs w) (fieldImm w)
  | .lui _ _ => .lui (fieldRt w) (fieldImm w)
  | .beql _ _ _ => .beql (fieldRs w) (fieldRt w) (fieldImm w)
  | .bnel _ _ _ => .bnel (fieldRs w) (fieldRt w) (fieldImm w)
  | .blezl _ _ => .blezl (fieldRs w) (fieldImm w)
  | .bgtzl _ _ => .bgtzl (fieldRs w) (fieldImm w)
  | .lb _ _ _ => .lb (fieldRt w) (fieldRs w) (fieldImm w)
  | .lh _ _ _ => .lh (fieldRt w) (fieldRs w) (fieldImm w)
  | .lw _ _ _ => .lw (fieldRt w) (fieldRs w) (fieldImm w)
  | .lbu _ _ _ => .lbu (fieldRt w) (fieldRs w) (fieldImm w)
  | .lhu _ _ _ => .lhu (fieldRt w) (fieldRs w) (fieldImm w)
  | .lwu _ _ _ => .lwu (fieldRt w) (fieldRs w) (fieldImm w)
  | .sb _ _ _ => .sb (fieldRt w) (fieldRs w) (fieldImm w)
  | .sh _ _ _ => .sh (fieldRt w) (fieldRs w) (fieldImm w)
  | .sw _ _ _ => .sw (fieldRt w) (fieldRs w) (fieldImm w)
  | .mtc0 _ _ => .mtc0 (fieldRt w) (fieldRd w)

/-- Masking a word masks its fields, in format R. -/
theorem and_packR (w : IWord) (op : BitVec 6) (rs rt rd : Reg) (sa : BitVec 5) (fn : BitVec 6) :
    w &&& packR op rs rt rd sa fn =
      packR (fieldOp w &&& op) (fieldRs w &&& rs) (fieldRt w &&& rt) (fieldRd w &&& rd) (fieldSa w &&& sa)
        (fieldFunct w &&& fn) := by
  rw [← packR_fields (w &&& packR op rs rt rd sa fn)]; simp

/-- Masking a word masks its fields, in format I. -/
theorem and_packI (w : IWord) (op : BitVec 6) (rs rt : Reg) (imm : Imm) :
    w &&& packI op rs rt imm = packI (fieldOp w &&& op) (fieldRs w &&& rs) (fieldRt w &&& rt) (fieldImm w &&& imm) := by
  rw [← packI_fields (w &&& packI op rs rt imm)]; simp

/-- Words in format R are equal exactly when their fields are. -/
theorem packR_inj {op op' : BitVec 6} {rs rs' rt rt' rd rd' : Reg} {sa sa' : BitVec 5} {fn fn' : BitVec 6} :
    packR op rs rt rd sa fn = packR op' rs' rt' rd' sa' fn' ↔
      op = op' ∧ rs = rs' ∧ rt = rt' ∧ rd = rd' ∧ sa = sa' ∧ fn = fn' := by
  refine ⟨fun h => ⟨?_, ?_, ?_, ?_, ?_, ?_⟩, ?_⟩
  · simpa using congrArg fieldOp h
  · simpa using congrArg fieldRs h
  · simpa using congrArg fieldRt h
  · simpa using congrArg fieldRd h
  · simpa using congrArg fieldSa h
  · simpa using congrArg fieldFunct h
  · rintro ⟨rfl, rfl, rfl, rfl, rfl, rfl⟩; rfl

/-- Words in format I are equal exactly when their fields are. -/
theorem packI_inj {op op' : BitVec 6} {rs rs' rt rt' : Reg} {imm imm' : Imm} :
    packI op rs rt imm = packI op' rs' rt' imm' ↔ op = op' ∧ rs = rs' ∧ rt = rt' ∧ imm = imm' := by
  refine ⟨fun h => ⟨?_, ?_, ?_, ?_⟩, ?_⟩
  · simpa using congrArg fieldOp h
  · simpa using congrArg fieldRs h
  · simpa using congrArg fieldRt h
  · simpa using congrArg fieldImm h
  · rintro ⟨rfl, rfl, rfl, rfl⟩; rfl

/-! ## What it takes to match a row (R62 to R65) -/

section Rows
variable {m : String} {v w : IWord}

theorem TableRow.matches_iff {r : TableRow} : r.matches w = true ↔ w &&& r.mask = r.value := beq_iff_eq

/-- A SPECIAL row matches by `op` and `funct`. -/
theorem matches_special (hv : v = packR 0#6 0#5 0#5 0#5 0#5 (fieldFunct v)) :
    TableRow.matches ⟨m, 0xFC00003F#32, v⟩ w = true ↔ fieldOp w = 0#6 ∧ fieldFunct w = fieldFunct v := by
  rw [TableRow.matches_iff, hv]
  simp [Laws.special_mask, and_packR, packR_inj, Laws.and_ones6]

/-- A REGIMM row matches by `op` and bits 20:16. -/
theorem matches_regimm (hv : v = packI 1#6 0#5 (fieldRt v) 0#16) :
    TableRow.matches ⟨m, 0xFC1F0000#32, v⟩ w = true ↔ fieldOp w = 1#6 ∧ fieldRt w = fieldRt v := by
  rw [TableRow.matches_iff, hv]
  simp [Laws.regimm_mask, and_packI, packI_inj, Laws.and_ones6, Laws.and_ones5]

/-- A row told apart by `op` alone. -/
theorem matches_major (hv : v = packI (fieldOp v) 0#5 0#5 0#16) :
    TableRow.matches ⟨m, 0xFC000000#32, v⟩ w = true ↔ fieldOp w = fieldOp v := by
  rw [TableRow.matches_iff, hv]
  simp [Laws.major_mask, and_packI, packI_inj, Laws.and_ones6]

/-- The COP0 row matches by `op` and bits 25:21. -/
theorem matches_cop0 (hv : v = packR 16#6 (fieldRs v) 0#5 0#5 0#5 0#6) :
    TableRow.matches ⟨m, 0xFFE00000#32, v⟩ w = true ↔ fieldOp w = 16#6 ∧ fieldRs w = fieldRs v := by
  rw [TableRow.matches_iff, hv]
  simp [Laws.cop0_mask, and_packR, packR_inj, Laws.and_ones6, Laws.and_ones5]

end Rows

/-! ## Decode is the table -/

/-- The word matches the instruction's row, and its fields are the instruction's operands. -/
def Instr.ReadFrom (w : IWord) (i : Instr) : Prop := i.row.matches w = true ∧ i.reread w = i

/-! `decode_ok` goes by the tables of R70, one lemma for each second opcode field. -/

theorem decodeSpecial_ok {w : IWord} {i : Instr} (hop : fieldOp w = 0#6) (h : decodeSpecial w = .ok i) :
    i.ReadFrom w := by
  unfold decodeSpecial at h
  split at h <;> cases h
  all_goals next hfn => exact ⟨(matches_special rfl).2 ⟨hop, hfn⟩, rfl⟩

theorem decodeRegimm_ok {w : IWord} {i : Instr} (hop : fieldOp w = 1#6) (h : decodeRegimm w = .ok i) :
    i.ReadFrom w := by
  unfold decodeRegimm at h
  split at h <;> cases h
  all_goals next hrt => exact ⟨(matches_regimm rfl).2 ⟨hop, hrt⟩, rfl⟩

theorem decodeCop0_ok {w : IWord} {i : Instr} (hop : fieldOp w = 16#6) (h : decodeCop0 w = .ok i) :
    i.ReadFrom w := by
  unfold decodeCop0 at h
  split at h <;> cases h
  next hrs => exact ⟨(matches_cop0 rfl).2 ⟨hop, hrs⟩, rfl⟩

/-- What decode answers with is read from the word. -/
theorem decode_ok {w : IWord} {i : Instr} (h : decode w = .ok i) : i.ReadFrom w := by
  unfold decode at h
  split at h
  case h_1 hop => exact decodeSpecial_ok hop h
  case h_2 hop => exact decodeRegimm_ok hop h
  case h_13 hop => exact decodeCop0_ok hop h
  all_goals cases h
  all_goals next hop => exact ⟨(matches_major rfl).2 hop, rfl⟩

/-! The three groups with a second opcode field (R70). -/

theorem decode_special {w : IWord} (hop : fieldOp w = 0#6) : decode w = decodeSpecial w := by rw [decode, hop]; rfl

theorem decode_regimm {w : IWord} (hop : fieldOp w = 1#6) : decode w = decodeRegimm w := by rw [decode, hop]; rfl

theorem decode_cop0 {w : IWord} (hop : fieldOp w = 16#6) : decode w = decodeCop0 w := by rw [decode, hop]; rfl

/-- A word that matches an instruction's row decodes to the instruction of that row with the word's operands. -/
theorem decode_of_matches {w : IWord} (i : Instr) (h : i.row.matches w = true) : decode w = .ok (i.reread w) := by
  cases i
  case sll | srl | jr | jalr | add | addu | sub | subu | and | or | xor =>
    obtain ⟨hop, hfn⟩ := (matches_special rfl).1 h
    rw [decode_special hop, decodeSpecial, hfn]; rfl
  case bltz | bgez | bltzl | bgezl | bltzal | bgezal | bltzall | bgezall =>
    obtain ⟨hop, hrt⟩ := (matches_regimm rfl).1 h
    rw [decode_regimm hop, decodeRegimm, hrt]; rfl
  case mtc0 =>
    obtain ⟨hop, hrs⟩ := (matches_cop0 rfl).1 h
    rw [decode_cop0 hop, decodeCop0, hrs]; rfl
  all_goals
    have hop := (matches_major rfl).1 h
    rw [decode, hop]; rfl

/-- Decode answers with an instruction exactly when the word matches its row and carries its operands. -/
theorem decode_eq_ok_iff {w : IWord} {i : Instr} : decode w = .ok i ↔ i.ReadFrom w :=
  ⟨decode_ok, fun ⟨hm, hi⟩ => (decode_of_matches i hm).trans (congrArg _ hi)⟩

/-! ## Decode and encode -/

/-- The shift amount read from a word is a five-bit count. -/
theorem wellFormed_reread (w : IWord) (i : Instr) : (i.reread w).WellFormed = true := by
  cases i
  case sll | srl => exact decide_eq_true (fieldSa w).isLt
  all_goals rfl

open Laws in
/-- The encoding of a well-formed instruction matches the instruction's row. -/
theorem matches_encode (i : Instr) : Laws.EncodedInItsRow.Statement i := by
  cases i
  exacts [EncodedInItsRow.sll _ _ _, EncodedInItsRow.srl _ _ _, EncodedInItsRow.jr _, EncodedInItsRow.jalr _ _,
    EncodedInItsRow.add _ _ _, EncodedInItsRow.addu _ _ _, EncodedInItsRow.sub _ _ _, EncodedInItsRow.subu _ _ _,
    EncodedInItsRow.and _ _ _, EncodedInItsRow.or _ _ _, EncodedInItsRow.xor _ _ _, EncodedInItsRow.bltz _ _,
    EncodedInItsRow.bgez _ _, EncodedInItsRow.bltzl _ _, EncodedInItsRow.bgezl _ _, EncodedInItsRow.bltzal _ _,
    EncodedInItsRow.bgezal _ _, EncodedInItsRow.bltzall _ _, EncodedInItsRow.bgezall _ _, EncodedInItsRow.beq _ _ _,
    EncodedInItsRow.bne _ _ _, EncodedInItsRow.blez _ _, EncodedInItsRow.bgtz _ _, EncodedInItsRow.addi _ _ _,
    EncodedInItsRow.addiu _ _ _, EncodedInItsRow.andi _ _ _, EncodedInItsRow.ori _ _ _, EncodedInItsRow.xori _ _ _,
    EncodedInItsRow.lui _ _, EncodedInItsRow.beql _ _ _, EncodedInItsRow.bnel _ _ _, EncodedInItsRow.blezl _ _,
    EncodedInItsRow.bgtzl _ _, EncodedInItsRow.lb _ _ _, EncodedInItsRow.lh _ _ _, EncodedInItsRow.lw _ _ _,
    EncodedInItsRow.lbu _ _ _, EncodedInItsRow.lhu _ _ _, EncodedInItsRow.lwu _ _ _, EncodedInItsRow.sb _ _ _,
    EncodedInItsRow.sh _ _ _, EncodedInItsRow.sw _ _ _, EncodedInItsRow.mtc0 _ _]

/-- The encoding holds every operand that fits its field (R66). -/
theorem reread_encode {i : Instr} (h : i.WellFormed = true) : i.reread (encode i) = i := by
  cases i
  case sll rd rt sa | srl rd rt sa =>
    have hsa : sa % 32 = sa := Nat.mod_eq_of_lt (of_decide_eq_true h)
    simp [Instr.reread, encode, hsa]
  all_goals simp [Instr.reread, encode]

/-- Decoding inverts encoding. -/
theorem decode_encode {i : Instr} (h : i.WellFormed = true) : decode (encode i) = .ok i :=
  decode_eq_ok_iff.2 ⟨matches_encode i h, reread_encode h⟩

/-- A word laid out as bytes is decoded as the word is, and the bytes after it are left (R43, R49). -/
theorem decodeBytes_wordBytes (w : IWord) (rest : List Byte) :
    decodeBytes (wordBytes w ++ rest) = (decode w).map (·, rest) := by
  simp only [wordBytes, List.cons_append, List.nil_append, decodeBytes, bytesWord_wordBytes]
  cases decode w <;> rfl

/-- Settles O1: the encoding matches the instruction's row and carries its operands, as a word and as bytes. -/
theorem decodeInvertsEncode : Obligations.DecodeInvertsEncode := by
  intro i rest h
  rw [decodeBytes_wordBytes, decode_encode h]
  exact ⟨rfl, rfl⟩

/-- Well-formed instructions with the same encoding are the same. -/
theorem encode_inj {i j : Instr} (hi : i.WellFormed = true) (hj : j.WellFormed = true) (h : encode i = encode j) :
    i = j := by
  have hd : decode (encode i) = .ok j := h ▸ decode_encode hj
  exact Except.ok.inj ((decode_encode hi).symm.trans hd)

/-! ## Bits that an instruction uses (R62 to R65, R72) -/

/-- A mask of ones keeps the immediate. -/
theorem and_ones16 (x : Imm) : x &&& 0xFFFF#16 = x := BitVec.and_allOnes (x := x)

/-- Encoding the operands read from a word of the row keeps the bits used: `usedBits` is the mask of whole fields that
`encode` fills, the opcode fields being those of the row. -/
theorem encode_reread {w : IWord} {i : Instr} (h : i.row.matches w = true) :
    encode (i.reread w) = w &&& i.usedBits := by
  cases i
  case sll | srl =>
    obtain ⟨hop, hfn⟩ := (matches_special rfl).1 h
    refine .trans ?_ (and_packR w 63#6 0#5 31#5 31#5 31#5 63#6).symm
    simp only [hop, hfn, Laws.and_ones5, BitVec.and_zero, encode, Instr.reread, BitVec.ofNat_toNat, BitVec.setWidth_eq]
    rfl
  case jr =>
    obtain ⟨hop, hfn⟩ := (matches_special rfl).1 h
    refine .trans ?_ (and_packR w 63#6 31#5 0#5 0#5 0#5 63#6).symm
    simp only [hop, hfn, Laws.and_ones5, BitVec.and_zero]
    rfl
  case jalr =>
    obtain ⟨hop, hfn⟩ := (matches_special rfl).1 h
    refine .trans ?_ (and_packR w 63#6 31#5 0#5 31#5 0#5 63#6).symm
    simp only [hop, hfn, Laws.and_ones5, BitVec.and_zero]
    rfl
  case add | addu | sub | subu | and | or | xor =>
    obtain ⟨hop, hfn⟩ := (matches_special rfl).1 h
    refine .trans ?_ (and_packR w 63#6 31#5 31#5 31#5 0#5 63#6).symm
    simp only [hop, hfn, Laws.and_ones5, BitVec.and_zero]
    rfl
  case mtc0 =>
    obtain ⟨hop, hrs⟩ := (matches_cop0 rfl).1 h
    refine .trans ?_ (and_packR w 63#6 31#5 31#5 31#5 0#5 0#6).symm
    simp only [hop, hrs, Laws.and_ones5, BitVec.and_zero]
    rfl
  case bltz | bgez | bltzl | bgezl | bltzal | bgezal | bltzall | bgezall =>
    obtain ⟨hop, hrt⟩ := (matches_regimm rfl).1 h
    refine .trans ?_ (and_packI w 63#6 31#5 31#5 0xFFFF#16).symm
    simp only [hop, hrt, Laws.and_ones5, and_ones16]
    rfl
  case blez | bgtz | blezl | bgtzl =>
    have hop := (matches_major rfl).1 h
    refine .trans ?_ (and_packI w 63#6 31#5 0#5 0xFFFF#16).symm
    simp only [hop, Laws.and_ones5, and_ones16, BitVec.and_zero]
    rfl
  case lui =>
    have hop := (matches_major rfl).1 h
    refine .trans ?_ (and_packI w 63#6 0#5 31#5 0xFFFF#16).symm
    simp only [hop, Laws.and_ones5, and_ones16, BitVec.and_zero]
    rfl
  all_goals
    have hop := (matches_major rfl).1 h
    refine .trans ?_ (and_packI w 63#6 31#5 31#5 0xFFFF#16).symm
    simp only [hop, Laws.and_ones5, and_ones16]
    rfl

/-- Settles O2: the instruction is the one re-read from the word, so its encoding keeps the bits used. -/
theorem encodeKeepsUsedBits : Obligations.EncodeKeepsUsedBits := by
  intro w i h
  obtain ⟨hm, hi⟩ := decode_ok h
  rw [← encode_reread hm, hi]
  exact ⟨hi ▸ wellFormed_reread w i, rfl⟩

/-- The bits that fix the row are used (R72). -/
theorem usedBits_and_mask (i : Instr) : i.usedBits &&& i.row.mask = i.row.mask := by
  cases i <;> (dsimp only [Instr.usedBits, Instr.row]; decide)

/-- Words that agree on the bits used match the same row. -/
theorem matches_of_usedBits {v w : IWord} {i : Instr} (h : v &&& i.usedBits = w &&& i.usedBits)
    (hw : i.row.matches w = true) : i.row.matches v = true := by
  rw [TableRow.matches_iff] at hw ⊢
  rw [← hw, ← usedBits_and_mask, ← BitVec.and_assoc, ← BitVec.and_assoc, h]

/-- Settles O3: the word matches the same row, and its instruction, having the same encoding, is the same. -/
theorem unusedBitsIgnored : Obligations.UnusedBitsIgnored := by
  intro w v i h hv
  obtain ⟨hm, hi⟩ := decode_ok h
  have hmv : i.row.matches v = true := matches_of_usedBits hv hm
  have henc : encode (i.reread v) = encode (i.reread w) := by rw [encode_reread hmv, encode_reread hm, hv]
  rw [decode_of_matches i hmv, encode_inj (wellFormed_reread v i) (wellFormed_reread w i) henc, hi]

/-! ## The opcode table -/

@[simp] theorem row_reread (w : IWord) (i : Instr) : (i.reread w).row = i.row := by cases i <;> rfl

theorem row_mnemonic (i : Instr) : i.row.mnemonic = i.mnemonic := by cases i <;> rfl

theorem row_mem_opcodeTable (i : Instr) : i.row ∈ opcodeTable := by
  cases i <;> (dsimp only [Instr.row]; decide)

/-- Every row is that of the instruction its value decodes to. -/
theorem exists_row_eq {r : TableRow} (h : r ∈ opcodeTable) : ∃ i : Instr, i.row = r := by
  have key : ∀ r ∈ opcodeTable, (decode r.value).map Instr.row = .ok r := by decide
  have hr := key r h
  cases hd : decode r.value with
  | error e => rw [hd] at hr; cases hr
  | ok i => rw [hd] at hr; exact ⟨i, Except.ok.inj hr⟩

/-- Rows are told apart by their mnemonics. -/
theorem row_eq_of_mnemonic_eq {r q : TableRow} (hr : r ∈ opcodeTable) (hq : q ∈ opcodeTable)
    (h : r.mnemonic = q.mnemonic) : r = q :=
  List.inj_on_of_nodup_map (f := TableRow.mnemonic) (by decide) hr hq h

/-- Settles O4: every row is an instruction's, decode answers by the row matched, and an instruction's mnemonic names
its row. -/
theorem decodeFollowsOpcodeTable : Obligations.DecodeFollowsOpcodeTable := by
  refine ⟨fun w r hr => ⟨fun hm => ?_, ?_⟩, fun w hnone => ?_⟩
  · obtain ⟨i, rfl⟩ := exists_row_eq hr
    exact ⟨i.reread w, decode_of_matches i hm, by rw [← row_mnemonic, row_reread]⟩
  · rintro ⟨i, hi, hmn⟩
    have hrow : i.row = r := row_eq_of_mnemonic_eq (row_mem_opcodeTable i) hr ((row_mnemonic i).trans hmn)
    exact hrow ▸ (decode_ok hi).1
  · cases hd : decode w with
    | error e => exact decodeId_of_error hd
    | ok i => exact absurd (decode_ok hd).1 (by simp [hnone _ (row_mem_opcodeTable i)])

/-- Settles O5, by running decode on the words. -/
theorem sampleWordsDecode : Obligations.SampleWordsDecode := by
  unfold Obligations.SampleWordsDecode
  decide

end Sys2Proof

namespace Sys2Proof.Machine

/-! ## The dispatch table (R71, R90 to R94) -/

/-! The selector bits of R71 are bits of the opcode fields, which the row of the word fixes. -/

theorem getLsbD_zero_eq_funct (w : IWord) : w.getLsbD 0 = (fieldFunct w).getLsbD 0 := by simp [fieldFunct]

theorem getLsbD_one_eq_funct (w : IWord) : w.getLsbD 1 = (fieldFunct w).getLsbD 1 := by simp [fieldFunct]

theorem getLsbD_sixteen_eq_rt (w : IWord) : w.getLsbD 16 = (fieldRt w).getLsbD 0 := by simp [fieldRt]

theorem getLsbD_seventeen_eq_rt (w : IWord) : w.getLsbD 17 = (fieldRt w).getLsbD 1 := by simp [fieldRt]

theorem getLsbD_twentySix_eq_op (w : IWord) : w.getLsbD 26 = (fieldOp w).getLsbD 0 := by simp [fieldOp]

theorem getLsbD_twentyEight_eq_op (w : IWord) : w.getLsbD 28 = (fieldOp w).getLsbD 2 := by simp [fieldOp]

theorem getLsbD_thirty_eq_op (w : IWord) : w.getLsbD 30 = (fieldOp w).getLsbD 4 := by simp [fieldOp]

theorem extractLsb'_zero_two_eq_funct (w : IWord) : w.extractLsb' 0 2 = (fieldFunct w).extractLsb' 0 2 := by
  ext i hi; interval_cases i <;> simp [fieldFunct]

theorem extractLsb'_twentySix_two_eq_op (w : IWord) : w.extractLsb' 26 2 = (fieldOp w).extractLsb' 0 2 := by
  ext i hi; interval_cases i <;> simp [fieldOp]

/-- JALR_JR on a word of JR: the branch-mask table clears the destination index (R169, R171). -/
theorem handleJalrJr_of_jr {e : DeexLatch} (h : fieldFunct e.iw = 0x08#6) (a : Value) :
    handleJalrJr e a = jump e a 0#6 := by
  have hlink : e.iw.getLsbD 0 = false := by rw [getLsbD_zero_eq_funct, h]; rfl
  have hmask : (selBranch (!false)).setWidth 5 = 0#5 := rfl
  rw [handleJalrJr, hlink, hmask, BitVec.and_zero]
  rfl

/-- JALR_JR on a word of JALR: the branch-mask table keeps the destination index (R169, R170). -/
theorem handleJalrJr_of_jalr {e : DeexLatch} (h : fieldFunct e.iw = 0x09#6) (a : Value) :
    handleJalrJr e a = jump e a (gprDest (fieldRd e.iw)) := by
  have hlink : e.iw.getLsbD 0 = true := by rw [getLsbD_zero_eq_funct, h]; rfl
  have hmask : (selBranch (!true)).setWidth 5 = 31#5 := rfl
  rw [handleJalrJr, hlink, hmask, Laws.and_ones5]

/-- The meaning of the instruction read from the latch's word completes the outcome of the handler that its opcode id
selects: the row of the word fixes the selector bits, and the handler reads the operands from the same fields. -/
theorem exec_reread {s : State} (i : Instr) (hid : s.deex.opcodeId = i.opcodeId)
    (hm : i.row.matches s.deex.iw = true) : exec (i.reread s.deex.iw) s = s.complete s.handlerOutcome := by
  rw [State.handlerOutcome, hid]
  cases i
  case addi | addiu | lui | sll | srl | mtc0 => rfl
  case add | sub | addu | subu | and | or | xor =>
    obtain ⟨-, hfn⟩ := (matches_special rfl).1 hm
    simp only [Instr.opcodeId, dispatch, handleAddSub, handleAdduSubu, handleAndOrXor, getLsbD_one_eq_funct,
      extractLsb'_zero_two_eq_funct, hfn]
    rfl
  case jr =>
    obtain ⟨-, hfn⟩ := (matches_special rfl).1 hm
    exact congrArg s.complete (handleJalrJr_of_jr hfn _).symm
  case jalr =>
    obtain ⟨-, hfn⟩ := (matches_special rfl).1 hm
    exact congrArg s.complete (handleJalrJr_of_jalr hfn _).symm
  case andi | ori | xori | lb | lh | lw | lbu | lhu | lwu | sb | sh | sw =>
    have hop := (matches_major rfl).1 hm
    simp only [Instr.opcodeId, dispatch, handleAndiOriXori, handleLoad, handleStore, getLsbD_twentyEight_eq_op,
      extractLsb'_twentySix_two_eq_op, hop]
    rfl
  case beq | beql | blez | blezl =>
    have hop := (matches_major rfl).1 hm
    have hsense : s.deex.iw.getLsbD 26 = false := by rw [getLsbD_twentySix_eq_op, hop]; rfl
    simp only [Instr.opcodeId, dispatch, handleBeqBne, handleBlezBgtz, hsense, Bool.bne_false, getLsbD_thirty_eq_op,
      hop]
    rfl
  case bne | bnel | bgtz | bgtzl =>
    have hop := (matches_major rfl).1 hm
    have hsense : s.deex.iw.getLsbD 26 = true := by rw [getLsbD_twentySix_eq_op, hop]; rfl
    simp only [Instr.opcodeId, dispatch, handleBeqBne, handleBlezBgtz, hsense, Bool.bne_true, condLez, Bool.not_not,
      getLsbD_thirty_eq_op, hop]
    rfl
  case bltz | bltzl | bltzal | bltzall =>
    obtain ⟨-, hrt⟩ := (matches_regimm rfl).1 hm
    have hsense : s.deex.iw.getLsbD 16 = false := by rw [getLsbD_sixteen_eq_rt, hrt]; rfl
    simp only [Instr.opcodeId, dispatch, handleBltzBgez, handleBltzalBgezal, hsense, Bool.bne_false,
      getLsbD_seventeen_eq_rt, hrt]
    rfl
  case bgez | bgezl | bgezal | bgezall =>
    obtain ⟨-, hrt⟩ := (matches_regimm rfl).1 hm
    have hsense : s.deex.iw.getLsbD 16 = true := by rw [getLsbD_sixteen_eq_rt, hrt]; rfl
    simp only [Instr.opcodeId, dispatch, handleBltzBgez, handleBltzalBgezal, hsense, Bool.bne_true,
      getLsbD_seventeen_eq_rt, hrt]
    rfl

/-- Settles O43: the latch's instruction is the one read from its word. -/
theorem dispatchTableAgrees : Obligations.DispatchTableAgrees := by
  intro s i h hid
  obtain ⟨hm, hi⟩ := decode_ok h
  rw [decodeId_of_ok h] at hid
  have hexec := exec_reread i hid hm
  rwa [hi] at hexec

end Sys2Proof.Machine

/-! # The two bitwise handlers (40_dispatch_and_tables.md R97, 41_arith_logic.md R121) at every selector value -/

namespace Sys2Proof.Machine

/-- The reserved selector 3 has both masks 0 (R97), so its result is 0 for every pair of operands (R121). -/
@[simp] theorem bitwise_reserved (a b : Value) : bitwise a b 3#2 = 0#64 := by
  simp [bitwise, selBitwise]

/-- `Bitwise(a, b, s)` at every selector (R121). -/
theorem bitwise_eq_ite (a b : Value) (s : BitVec 2) :
    bitwise a b s = if s = 0#2 then a &&& b else if s = 1#2 then a ||| b else if s = 2#2 then a ^^^ b else 0#64 := by
  have hcase : s = 0#2 ∨ s = 1#2 ∨ s = 2#2 ∨ s = 3#2 := by revert s; decide
  obtain rfl | rfl | rfl | rfl := hcase
  · exact bitwise_and a b
  · exact bitwise_or a b
  · exact bitwise_xor a b
  · exact bitwise_reserved a b

/-- Settles O13: each handler is `bitwise` at the selector it reads from the word. -/
theorem bitwiseSelectorValues : Obligations.BitwiseSelectorValues := fun e a b =>
  ⟨congrArg (resultOnly _) (bitwise_eq_ite a b (e.iw.extractLsb' 0 2)),
    congrArg (resultOnly _) (bitwise_eq_ite a (zext16 (fieldImm e.iw)) (e.iw.extractLsb' 26 2))⟩

end Sys2Proof.Machine

/-! # Arithmetic and logic (41_arith_logic.md): add and subtract, bitwise, load upper, shifts -/

namespace Sys2Proof.Machine

/-! ## Rows of the opcode table as decode rows (R70)

Each takes an instruction of the row; which operands it has does not matter, since they are re-read from the word. -/

/-- The words of a SPECIAL row decode to the row's instruction. -/
theorem specialRow_reread (i : Instr) {fn : BitVec 6} (hmask : i.row.mask = 0xFC00003F#32)
    (hvalue : i.row.value = packR 0#6 0#5 0#5 0#5 0#5 fn) : SpecialRow fn fun w => i.reread w := by
  intro w hop hfn
  apply decode_of_matches
  rw [TableRow.matches_iff, hmask, hvalue, Laws.special_mask, and_packR, hop, hfn]
  simp [Laws.and_ones6]

/-- The words of a row told apart by `op` alone decode to the row's instruction. -/
theorem majorRow_reread (i : Instr) {op : BitVec 6} (hmask : i.row.mask = 0xFC000000#32)
    (hvalue : i.row.value = packI op 0#5 0#5 0#16) : MajorRow op fun w => i.reread w := by
  intro w hop
  apply decode_of_matches
  rw [TableRow.matches_iff, hmask, hvalue, Laws.major_mask, and_packI, hop]
  simp [Laws.and_ones6]

/-! ## The frame of an instruction without a request (R94) -/

/-- Writing a register and retiring leaves all else as it was, but for EXMEM, the flow and the squash mask. -/
theorem State.retire_writeDest_frame (s : State) (w : LatchWrites) (d : Dest) (v : Value) :
    RegsAfter s ((s.writeDest d v).retire w) d v ∧ SameMemory s ((s.writeDest d v).retire w) ∧
      SameLaunchAndWord s ((s.writeDest d v).retire w) := by
  refine ⟨(State.regsAfter_retire ..).2 (State.regsAfter_writeDest s d v), fun a => ?_, ?_⟩
  · rw [State.byteAt_retire, State.byteAt_writeDest]
  · simp [SameLaunchAndWord]

/-- An outcome that is a result alone always completes; this is the frame of a register instruction. -/
theorem State.complete_resultOnly (s : State) (d : Dest) (v : Value) :
    ∃ t, s.complete (resultOnly d v) = .next t ∧ t.exmem = ⟨v, d, none⟩ ∧
      RegsAfter s t d v ∧ SameMemory s t ∧ SameLaunchAndWord s t ∧ SequentialFlow s t := by
  obtain ⟨hregs, hmem, hlaunch⟩ := State.retire_writeDest_frame s ⟨v, d, none, none, none⟩ d v
  exact ⟨_, State.complete_of_req_none s rfl, rfl, hregs, hmem, hlaunch, by simp [SequentialFlow]⟩

/-- An instruction whose handler's outcome is a result alone computes it. -/
theorem computes_of_exec {i : Instr} {s : State} {o : HandlerOutcome} {d : Dest} {v : Value}
    (h : exec i s = s.complete o) (ho : o = resultOnly d v) : Computes i s d v := by
  rw [Computes, h, ho]
  exact State.complete_resultOnly s d v

/-- An instruction whose handler's outcome is a fault raises it. -/
theorem raises_of_exec {i : Instr} {s : State} {o : HandlerOutcome} {kind : FaultKind}
    {access : Option (Addr × AccessKind)} (h : exec i s = s.complete o)
    (ho : o = .fault (s.deex.faultInfo kind access)) : Raises i s kind access := by
  rw [Raises, h, ho]
  rfl

/-! ## Add and subtract (R110, R111)

The value of the raw sum is a hypothesis, so that one lemma serves the sum (`rawSum_false`) and the difference
(`rawSum_true`). -/

section AddSub
variable {e : DeexLatch} {a b raw : Value} {sub : Bool} {d : Dest}

/-- When bits 32 and 31 of the raw sum agree, the outcome is its sign-extended low half, trapping or not. -/
theorem addSub_of_bits_eq (hraw : rawSum a b sub = raw) (h : raw.getLsbD 32 = raw.getLsbD 31) (trap : Bool) :
    addSub e a b sub trap d = resultOnly d (sext32 raw) := by
  subst hraw
  rw [addSub, (overflow_eq_false_iff _).2 h, Bool.and_false]
  rfl

/-- When they differ, the trapping shape faults. -/
theorem addSub_of_bits_ne (hraw : rawSum a b sub = raw) (h : raw.getLsbD 32 ≠ raw.getLsbD 31) :
    addSub e a b sub true d = .fault (e.faultInfo .integerOverflow none) := by
  subst hraw
  rw [addSub, (overflow_eq_true_iff _).2 h]
  rfl

/-- The wrapping shape never faults. -/
theorem addSub_wrapping (e : DeexLatch) (hraw : rawSum a b sub = raw) :
    addSub e a b sub false d = resultOnly d (sext32 raw) :=
  hraw ▸ rfl

end AddSub

/-- Settles O6: the trapping shape at the sum and at the difference, whether bits 32 and 31 agree or differ. -/
theorem addSubTrapping : Obligations.AddSubTrapping := by
  refine ⟨specialRow_reread (.add 0 0 0) rfl rfl, specialRow_reread (.sub 0 0 0) rfl rfl, fun rd rs rt s =>
    ⟨fun h => ?_, fun h => ?_, fun h => ?_, fun h => ?_⟩⟩
  · exact computes_of_exec rfl (addSub_of_bits_eq (rawSum_false _ _) h true)
  · exact raises_of_exec rfl (addSub_of_bits_ne (rawSum_false _ _) h)
  · exact computes_of_exec rfl (addSub_of_bits_eq (rawSum_true _ _) h true)
  · exact raises_of_exec rfl (addSub_of_bits_ne (rawSum_true _ _) h)

/-- Settles O7: the wrapping shape at the sum and at the difference. -/
theorem addSubWrapping : Obligations.AddSubWrapping :=
  ⟨specialRow_reread (.addu 0 0 0) rfl rfl, specialRow_reread (.subu 0 0 0) rfl rfl, fun _ _ _ s =>
    ⟨computes_of_exec rfl (addSub_wrapping s.deex (rawSum_false _ _)),
      computes_of_exec rfl (addSub_wrapping s.deex (rawSum_true _ _))⟩⟩

/-- Settles O8: the sum with the sign-extended immediate, in the trapping and the wrapping shape. -/
theorem addImmediate : Obligations.AddImmediate := by
  refine ⟨majorRow_reread (.addi 0 0 0) rfl rfl, majorRow_reread (.addiu 0 0 0) rfl rfl, fun rt rs imm s =>
    ⟨fun h => ?_, fun h => ?_, ?_⟩⟩
  · exact computes_of_exec rfl (addSub_of_bits_eq (rawSum_false _ _) h true)
  · exact raises_of_exec rfl (addSub_of_bits_ne (rawSum_false _ _) h)
  · exact computes_of_exec rfl (addSub_wrapping s.deex (rawSum_false _ _))

/-- Settles O9: the difference with the sign-extended immediate, in the trapping and the wrapping shape. -/
theorem subImmediateVariants : Obligations.SubImmediateVariants := by
  intro rt rs imm s
  obtain ⟨t, ht, hexmem, hregs, hmem, hlaunch, hflow⟩ :=
    State.complete_resultOnly s (gprDest rt) (sext32 (s.readX rs - sext16 imm))
  refine ⟨fun h => ⟨t, .trans ?_ ht, hexmem, hmem, hlaunch, hflow, hregs⟩, fun h => ?_,
    ⟨t, .trans ?_ ht, hexmem, hmem, hlaunch, hflow, hregs⟩⟩
  · exact congrArg s.complete (addSub_of_bits_eq (rawSum_true _ _) h true)
  · exact congrArg s.complete (addSub_of_bits_ne (rawSum_true _ _) h)
  · exact congrArg s.complete (addSub_wrapping s.deex (rawSum_true _ _))

/-- The overflow predicate (R111) of a raw sum that lies in the signed 33-bit range: bit 32 is its sign there, so bits
32 and 31 agree exactly when it lies in the signed 32-bit range. -/
theorem overflow_iff_toInt_out_of_range {raw : Value} (hlo : -4294967296 ≤ raw.toInt) (hhi : raw.toInt < 4294967296) :
    overflow raw = true ↔ ¬(-2147483648 ≤ raw.toInt ∧ raw.toInt ≤ 2147483647) := by
  have hlt := raw.isLt
  rw [overflow_eq_true_iff, BitVec.getLsbD, BitVec.getLsbD, Nat.testBit_eq_decide_div_mod_eq,
    Nat.testBit_eq_decide_div_mod_eq, ne_eq, decide_eq_decide]
  rw [BitVec.toInt_eq_toNat_cond] at hlo hhi ⊢
  split at hlo <;> omega

/-- Settles O10: the raw sum of sign-extended operands is the exact sum or difference, which lies in the signed 33-bit
range. -/
theorem overflowIsOutOfRange : Obligations.OverflowIsOutOfRange := by
  intro a b
  have ha := a.toInt_lt
  have ha' := a.le_toInt
  have hb := b.toInt_lt
  have hb' := b.le_toInt
  have hadd : (a.signExtend 64 + b.signExtend 64).toInt = a.toInt + b.toInt := by
    rw [BitVec.toInt_add, BitVec.toInt_signExtend_of_le (by decide), BitVec.toInt_signExtend_of_le (by decide)]
    exact Int.bmod_eq_of_le (by omega) (by omega)
  have hsub : (a.signExtend 64 - b.signExtend 64).toInt = a.toInt - b.toInt := by
    rw [BitVec.toInt_sub, BitVec.toInt_signExtend_of_le (by decide), BitVec.toInt_signExtend_of_le (by decide)]
    exact Int.bmod_eq_of_le (by omega) (by omega)
  rw [rawSum_false, rawSum_true, ← hadd, ← hsub]
  exact ⟨overflow_iff_toInt_out_of_range (by omega) (by omega),
    overflow_iff_toInt_out_of_range (by omega) (by omega)⟩

/-! ## Bitwise, load upper, shifts -/

/-- Settles O11: the bitwise operation at the selectors 0 to 2. -/
theorem bitwiseRegister : Obligations.BitwiseRegister :=
  ⟨specialRow_reread (.and 0 0 0) rfl rfl, specialRow_reread (.or 0 0 0) rfl rfl,
    specialRow_reread (.xor 0 0 0) rfl rfl, fun _ _ _ _ =>
    ⟨computes_of_exec rfl (congrArg (resultOnly _) (bitwise_and _ _)),
      computes_of_exec rfl (congrArg (resultOnly _) (bitwise_or _ _)),
      computes_of_exec rfl (congrArg (resultOnly _) (bitwise_xor _ _))⟩⟩

/-- Settles O12: the same operations with the zero-extended immediate. -/
theorem bitwiseImmediate : Obligations.BitwiseImmediate :=
  ⟨majorRow_reread (.andi 0 0 0) rfl rfl, majorRow_reread (.ori 0 0 0) rfl rfl,
    majorRow_reread (.xori 0 0 0) rfl rfl, fun _ _ _ _ =>
    ⟨computes_of_exec rfl (congrArg (resultOnly _) (bitwise_and _ _)),
      computes_of_exec rfl (congrArg (resultOnly _) (bitwise_or _ _)),
      computes_of_exec rfl (congrArg (resultOnly _) (bitwise_xor _ _))⟩⟩

/-- Shifting the zero-extended immediate left by 16 and keeping 32 bits is putting it above sixteen zeros (R129). -/
theorem luiValue_eq (imm : Imm) : luiValue imm = (imm ++ 0#16).signExtend 64 := by
  have h : low32 (zext16 imm <<< 16) = imm ++ 0#16 := by
    apply BitVec.eq_of_getLsbD_eq
    intro i hi
    rw [low32, zext16, BitVec.getLsbD_append]
    by_cases hlow : i < 16
    · simp [hlow]
    · simp [hlow, hi]
  rw [luiValue, sext32, h]

/-- Settles O14. -/
theorem loadUpperImmediate : Obligations.LoadUpperImmediate :=
  ⟨majorRow_reread (.lui 0 0) rfl rfl, fun _ imm _ =>
    computes_of_exec rfl (congrArg (resultOnly _) (luiValue_eq imm))⟩

/-- Settles O15: the meanings compute the shifted low half, for every shift amount. -/
theorem shifts : Obligations.Shifts :=
  ⟨specialRow_reread (.sll 0 0 0) rfl rfl, specialRow_reread (.srl 0 0 0) rfl rfl, fun _ _ _ _ =>
    ⟨computes_of_exec rfl rfl, computes_of_exec rfl rfl⟩⟩

end Sys2Proof.Machine

/-! # Branches and jumps (42_branch_jump.md) -/

namespace Sys2Proof.Machine

/-- The words of a REGIMM row decode to the row's instruction. -/
theorem regimmRow_reread (i : Instr) {sub : BitVec 5} (hmask : i.row.mask = 0xFC1F0000#32)
    (hvalue : i.row.value = packI 1#6 0#5 sub 0#16) : RegimmRow sub fun w => i.reread w := by
  intro w hop hrt
  apply decode_of_matches
  rw [TableRow.matches_iff, hmask, hvalue, Laws.regimm_mask, and_packI, hop, hrt]
  simp [Laws.and_ones6, Laws.and_ones5]

/-! ## The conditions, on all 64 bits (sections 2 to 4) -/

/-- The opposite condition (the sense bit of a branch, R71) holds when the condition does not. -/
theorem not_cond_iff {b : Bool} {p : Prop} (h : b = true ↔ p) : (!b) = true ↔ ¬p := by
  rw [← h, Bool.not_eq_true, Bool.not_eq_true']

theorem condEq_iff (a b : Value) : condEq a b = true ↔ a = b := beq_iff_eq

theorem condLtz_iff (a : Value) : condLtz a = true ↔ a.toInt < 0 := BitVec.slt_iff_toInt_lt

theorem condGez_iff (a : Value) : condGez a = true ↔ 0 ≤ a.toInt := (not_cond_iff (condLtz_iff a)).trans Int.not_lt

theorem condGtz_iff (a : Value) : condGtz a = true ↔ 0 < a.toInt := BitVec.slt_iff_toInt_lt

theorem condLez_iff (a : Value) : condLez a = true ↔ a.toInt ≤ 0 := (not_cond_iff (condGtz_iff a)).trans Int.not_lt

/-! ## The transfer shapes (R151, R169) -/

section Transfer
variable {i : Instr} {s : State} {taken : Prop} {imm : Imm}

/-- An outcome without a request, whose `next_pc` is the target exactly when the transfer is taken, is a transfer. -/
theorem transfers_of_exec {w : LatchWrites} {target : Addr} {mask : IWord} (h : exec i s = s.complete (.ok w))
    (hreq : w.req = none) (htaken : taken → w.nextPc = some target) (hnot : ¬taken → w.nextPc = none)
    (hmask : w.squashMask.getD s.deex.iwSquashMask = mask) : Transfers i s taken target mask w.dest w.result := by
  obtain ⟨hregs, hmem, hlaunch⟩ := State.retire_writeDest_frame s w w.dest w.result
  refine ⟨_, h.trans (State.complete_of_req_none s hreq), by simp [hreq], hregs, hmem, hlaunch, by simp,
    fun ht => by simp [htaken ht], fun hn => by simp [hnot hn], by simpa using hmask⟩

/-- The branch shape is a transfer to the branch target; its mask is what the branch-mask table gives (R98, R151). -/
theorem transfers_of_branch {b likely link : Bool} (h : exec i s = s.complete (branch s.deex b likely link imm))
    (hb : b = true ↔ taken) :
    Transfers i s taken (branchTarget s.deex.currentPc imm) (selBranch (likely && !b))
      (if link then gprDest linkReg else 0#6) (if link then linkValue s.deex.currentPc else 0#64) :=
  transfers_of_exec h rfl (fun ht => if_pos (hb.2 ht)) (fun hn => if_neg (mt hb.1 hn)) rfl

/-- The branch shape that is not likely. -/
theorem ordinaryBranch_of_exec {b link : Bool} (h : exec i s = s.complete (branch s.deex b false link imm))
    (hb : b = true ↔ taken) :
    OrdinaryBranch i s taken imm (if link then gprDest linkReg else 0#6)
      (if link then linkValue s.deex.currentPc else 0#64) :=
  transfers_of_branch h hb

/-- The likely branch shape: taken, the mask is NORMAL; not taken, it is SQUASHED. -/
theorem likelyBranch_of_exec {b link : Bool} (h : exec i s = s.complete (branch s.deex b true link imm))
    (hb : b = true ↔ taken) :
    LikelyBranch i s taken imm (if link then gprDest linkReg else 0#6)
      (if link then linkValue s.deex.currentPc else 0#64) := by
  have key := transfers_of_branch h hb
  cases b with
  | true => exact ⟨fun _ => key, fun hn => absurd (hb.1 rfl) hn⟩
  | false => exact ⟨fun ht => absurd (hb.2 ht) Bool.false_ne_true, fun _ => key⟩

/-- The register-jump shape is a transfer that is always taken and writes no squash mask (R169). -/
theorem transfers_of_jump {a : Value} {d : Dest} (h : exec i s = s.complete (jump s.deex a d)) :
    Transfers i s True a s.deex.iwSquashMask d (linkValue s.deex.currentPc) :=
  transfers_of_exec h rfl (fun _ => rfl) (absurd trivial) rfl

end Transfer

/-! ## The branches and the register jumps -/

/-- Settles O16. -/
theorem equalityBranches : Obligations.EqualityBranches :=
  ⟨majorRow_reread (.beq 0 0 0) rfl rfl, majorRow_reread (.bne 0 0 0) rfl rfl, fun _ _ _ _ =>
    ⟨ordinaryBranch_of_exec (link := false) rfl (condEq_iff _ _),
      ordinaryBranch_of_exec (link := false) rfl (not_cond_iff (condEq_iff _ _))⟩⟩

/-- Settles O17. -/
theorem equalityBranchesLikely : Obligations.EqualityBranchesLikely :=
  ⟨majorRow_reread (.beql 0 0 0) rfl rfl, majorRow_reread (.bnel 0 0 0) rfl rfl, fun _ _ _ _ =>
    ⟨likelyBranch_of_exec (link := false) rfl (condEq_iff _ _),
      likelyBranch_of_exec (link := false) rfl (not_cond_iff (condEq_iff _ _))⟩⟩

/-- Settles O18. -/
theorem signBranches : Obligations.SignBranches :=
  ⟨regimmRow_reread (.bgez 0 0) rfl rfl, regimmRow_reread (.bltz 0 0) rfl rfl, fun _ _ _ =>
    ⟨ordinaryBranch_of_exec (link := false) rfl (condGez_iff _),
      ordinaryBranch_of_exec (link := false) rfl (condLtz_iff _)⟩⟩

/-- Settles O19. -/
theorem signBranchesLikely : Obligations.SignBranchesLikely :=
  ⟨regimmRow_reread (.bgezl 0 0) rfl rfl, regimmRow_reread (.bltzl 0 0) rfl rfl, fun _ _ _ =>
    ⟨likelyBranch_of_exec (link := false) rfl (condGez_iff _),
      likelyBranch_of_exec (link := false) rfl (condLtz_iff _)⟩⟩

/-- Settles O20. -/
theorem zeroBranches : Obligations.ZeroBranches :=
  ⟨majorRow_reread (.bgtz 0 0) rfl rfl, majorRow_reread (.blez 0 0) rfl rfl, fun _ _ _ =>
    ⟨ordinaryBranch_of_exec (link := false) rfl (condGtz_iff _),
      ordinaryBranch_of_exec (link := false) rfl (condLez_iff _)⟩⟩

/-- Settles O21. -/
theorem zeroBranchesLikely : Obligations.ZeroBranchesLikely :=
  ⟨majorRow_reread (.bgtzl 0 0) rfl rfl, majorRow_reread (.blezl 0 0) rfl rfl, fun _ _ _ =>
    ⟨likelyBranch_of_exec (link := false) rfl (condGtz_iff _),
      likelyBranch_of_exec (link := false) rfl (condLez_iff _)⟩⟩

/-- Settles O22: the branch shape with the link; its condition is a value read before the link is written. -/
theorem linkingBranches : Obligations.LinkingBranches :=
  ⟨regimmRow_reread (.bgezal 0 0) rfl rfl, regimmRow_reread (.bltzal 0 0) rfl rfl, fun _ _ _ =>
    ⟨ordinaryBranch_of_exec (link := true) rfl (condGez_iff _),
      ordinaryBranch_of_exec (link := true) rfl (condLtz_iff _)⟩⟩

/-- Settles O23: the likely shape with the link. -/
theorem linkingBranchesLikely : Obligations.LinkingBranchesLikely :=
  ⟨regimmRow_reread (.bgezall 0 0) rfl rfl, regimmRow_reread (.bltzall 0 0) rfl rfl, fun _ _ _ =>
    ⟨likelyBranch_of_exec (link := true) rfl (condGez_iff _),
      likelyBranch_of_exec (link := true) rfl (condLtz_iff _)⟩⟩

/-- Settles O24: both are the register-jump shape; the target is a value read before the link is written. -/
theorem registerJumps : Obligations.RegisterJumps :=
  ⟨specialRow_reread (.jalr 0 0) rfl rfl, specialRow_reread (.jr 0) rfl rfl, fun _ _ _ =>
    ⟨transfers_of_jump rfl, transfers_of_jump rfl⟩⟩

/-- Settles O25: the branch-mask table gives all ones for a set bit, which keep `rd`, and zeros for a clear one. -/
theorem registerJumpHandler : Obligations.RegisterJumpHandler := by
  intro e a
  rw [handleJalrJr]
  cases e.iw.getLsbD 0 with
  | true =>
    have hmask : (selBranch (!true)).setWidth 5 = 31#5 := rfl
    rw [hmask, Laws.and_ones5]
    rfl
  | false =>
    have hmask : (selBranch (!false)).setWidth 5 = 0#5 := rfl
    rw [hmask, BitVec.and_zero]
    rfl

/-- The branch target adds a multiple of 4 to the `pc` (R150). -/
theorem branchTarget_eq (pc : Addr) (imm : Imm) :
    branchTarget pc imm = pc + 4 + BitVec.ofInt 64 (4 * imm.toInt) := by
  rw [BitVec.ofInt_mul, BitVec.mul_comm]
  rfl

/-- Adding multiples of 4 keeps the low two bits (R150). -/
theorem extractLsb'_two_branchTarget (pc : Addr) (imm : Imm) :
    (branchTarget pc imm).extractLsb' 0 2 = pc.extractLsb' 0 2 := by
  apply BitVec.eq_of_toNat_eq
  simp [branchTarget]

/-- Settles O26: four times a signed 16-bit number lies in the bounds. -/
theorem branchTargetDistance : Obligations.BranchTargetDistance := by
  intro pc imm
  have hlo := imm.le_toInt
  have hhi := imm.toInt_lt
  exact ⟨branchTarget_eq pc imm, by omega, by omega, extractLsb'_two_branchTarget pc imm⟩

/-! ## A transfer in a delay slot (R173) -/

/-- Handling the word in the latch completes what the handler selected by its opcode id computes: the instruction's
outcome (R71), or INVALID's fault (R225). -/
theorem handleLoaded_eq_complete {s : State} (hid : s.deex.opcodeId = decodeId s.deex.iw) :
    handleLoaded s = s.complete s.handlerOutcome := by
  cases hd : decode s.deex.iw with
  | ok i => rw [handleLoaded_of_ok hd, dispatchTableAgrees s i hd hid]
  | error e =>
    have ho : s.handlerOutcome = invalid s.deex := by rw [State.handlerOutcome, hid, decodeId_of_error hd]; rfl
    rw [handleLoaded_of_error hd, ho]
    rfl

/-- A step that leaves the machine running handled a word without a fault; the instruction at `npc` is next, and the
one after it is where the handler wrote, or else sequential (R272). -/
theorem step_next_running {s t : State} (h : step s = .next t) (ht : t.status = .running) :
    ∃ w o, s.prime.fetchWord = .ok w ∧ (s.atHandler w).handlerOutcome = .ok o ∧
      t.pc = some s.prime.fetchNextPc ∧ t.fetchNextPc = o.nextPc.getD (s.prime.fetchNextPc + 4) := by
  obtain ⟨-, ⟨-, rfl⟩ | ⟨-, w, hw, hc⟩⟩ := step_next h
  · cases ht
  · rw [handleLoaded_eq_complete rfl] at hc
    obtain ⟨f, -, rfl⟩ | ⟨o, u, ho, hu, rfl⟩ := State.complete_next hc
    · cases ht
    · obtain ⟨-, hnpc, -⟩ := State.commit_frame hu
      exact ⟨w, o, hw, ho, by simp [hnpc], by simp [hnpc]⟩

/-- The same step when the word and the handler's outcome are known and a word stood in the decode side. -/
theorem step_next_of_transfer {s t : State} {p target : Addr} {w : IWord} {o : LatchWrites} (h : step s = .next t)
    (ht : t.status = .running) (hpc : s.pc = some p) (hw : s.fetchWord = .ok w)
    (ho : (s.atHandler w).handlerOutcome = .ok o) (hnext : o.nextPc = some target) :
    t.pc = some s.fetchNextPc ∧ t.fetchNextPc = target := by
  obtain ⟨w', o', hw', ho', htpc, htnpc⟩ := step_next_running h ht
  rw [State.prime_of_some hpc] at hw' htpc htnpc
  cases hw.symm.trans hw'
  cases ho.symm.trans ho'
  exact ⟨htpc, by rw [htnpc, hnext]; rfl⟩

/-- Settles O53: each step moves `npc` to `pc`, and the two transfers put `T` and then `U` in `npc`. -/
theorem transferInDelaySlot : Obligations.TransferInDelaySlot := by
  rintro s t u v p T U w₁ w₂ o₁ o₂ ⟨-, hpc, -, hw₁⟩ hnpc hst - hw₂ ho₁ hT ho₂ hU htu hu huv hv
  obtain ⟨ht, -⟩ := step_next htu
  obtain ⟨htpc, htnpc⟩ := step_next_of_transfer hst ht hpc hw₁ ho₁ hT
  obtain ⟨hupc, hunpc⟩ := step_next_of_transfer htu hu htpc hw₂ ho₂ hU
  obtain ⟨-, -, -, -, hvpc, -⟩ := step_next_running huv hv
  rw [State.prime_of_some hupc, hunpc] at hvpc
  exact ⟨hnpc ▸ htpc, htnpc ▸ hupc, hvpc⟩

end Sys2Proof.Machine

/-! # Loads and stores (43_load_store.md) -/

namespace Sys2Proof.Machine

theorem aligned_eq_false_iff {size : AccessSize} {ea : Addr} :
    aligned size ea = false ↔ ea.toNat % size.bytes ≠ 0 := by
  simp [aligned]

/-! ## What a commit answers when every byte of the access may be touched (R41) -/

section Commit
variable {s : State} {ea : Addr} {size : AccessSize}

theorem Held.firstAbsent_eq_none (h : Held s ea size) : s.firstAbsent (accessAddrs ea size) = none :=
  List.find?_eq_none.2 fun x hx => by simp [h x hx]

theorem Writable.held (h : Writable s ea size) : Held s ea size := fun x hx => (h x hx).1

theorem Writable.firstInText_eq_none (h : Writable s ea size) : s.firstInText (accessAddrs ea size) = none :=
  List.find?_eq_none.2 fun x hx => by simp [(h x hx).2]

/-- A read of held bytes writes the combination of the data with the seed (R47). -/
theorem Held.commitRead_eq {word mask : IWord} (h : Held s ea size) (d : Dest) (seed : Value) :
    s.commitRead ⟨ea, .read, size, word, mask⟩ d seed =
      .ok (s.writeDest d (loaded size (s.memRead ea size) seed)) := by
  simp only [State.commitRead, h.firstAbsent_eq_none]

/-- An aligned write of writable bytes writes the lanes selected (R46). -/
theorem Writable.commitWrite_eq (h : Writable s ea size) (hal : aligned size ea = true) (b : Value) :
    s.commitWrite ⟨ea, .write, size, writeWord size ea b, laneMask size ea⟩ =
      .ok (s.setBytes (selectedLanes ⟨ea, .write, size, writeWord size ea b, laneMask size ea⟩)) := by
  simp only [State.commitWrite, selectedLanes_addrs b hal, h.firstInText_eq_none, h.held.firstAbsent_eq_none]

end Commit

/-- When the commit succeeds, the instruction is retired. -/
theorem State.complete_of_commit {s t : State} {w : LatchWrites} (h : s.commit w = .ok t) :
    s.complete (.ok w) = .next (t.retire w) := by
  simp only [State.complete, h]

/-! ## The load shape (R190) -/

section Load
variable {i j : Instr} {s : State} {a : Value} {imm : Imm} {size : AccessSize} {rt : Reg}

/-- An aligned load of held bytes completes with the combination of its data and its seed. -/
theorem loads_of_exec {z : Bool} (h : exec i s = s.complete (load s.deex a imm size z (gprDest rt)))
    (hal : aligned size (effectiveAddress a imm) = true) (hheld : Held s (effectiveAddress a imm) size) :
    Loads i s (effectiveAddress a imm) size (selLoadSeed z) rt
      (loaded size (s.memRead (effectiveAddress a imm) size) (selLoadSeed z)) := by
  rw [load_of_aligned hal] at h
  have hnext := h.trans (State.complete_of_commit (hheld.commitRead_eq (gprDest rt) (selLoadSeed z)))
  obtain ⟨hregs, hmem, hlaunch⟩ := State.retire_writeDest_frame s _ (gprDest rt) _
  exact ⟨_, hnext, rfl, hregs, hmem, hlaunch, by simp [SequentialFlow]⟩

/-- The signed and the unsigned load of a size complete with the two extensions of the data (R47). -/
theorem loads_extensions {d : BitVec size.bits}
    (hi : exec i s = s.complete (load s.deex a imm size false (gprDest rt)))
    (hj : exec j s = s.complete (load s.deex a imm size true (gprDest rt)))
    (hal : aligned size (effectiveAddress a imm) = true) (hheld : Held s (effectiveAddress a imm) size)
    (hd : s.memRead (effectiveAddress a imm) size = d.setWidth 64) :
    Loads i s (effectiveAddress a imm) size ones64 rt (d.signExtend 64) ∧
      Loads j s (effectiveAddress a imm) size 0#64 rt (d.setWidth 64) := by
  have hsigned := loads_of_exec hi hal hheld
  have hunsigned := loads_of_exec hj hal hheld
  rw [hd, selLoadSeed_false, loaded_ones64] at hsigned
  rw [hd, selLoadSeed_true, loaded_zero] at hunsigned
  exact ⟨hsigned, hunsigned⟩

/-- A misaligned load raises the alignment fault (R48). -/
theorem raises_of_misaligned_load {z : Bool} {d : Dest} (h : exec i s = s.complete (load s.deex a imm size z d))
    (hal : (effectiveAddress a imm).toNat % size.bytes ≠ 0) :
    Raises i s .unalignedAddress (some (effectiveAddress a imm, .read)) :=
  raises_of_exec h (load_of_misaligned (aligned_eq_false_iff.2 hal) z d)

end Load

/-- Settles O27: a byte is always aligned. -/
theorem byteLoads : Obligations.ByteLoads := by
  refine ⟨majorRow_reread (.lb 0 0 0) rfl rfl, majorRow_reread (.lbu 0 0 0) rfl rfl, ?_⟩
  rintro rt rs imm s ea rfl hheld
  exact loads_extensions (size := .byte) rfl rfl (aligned_byte _) hheld rfl

/-- Settles O28. -/
theorem halfwordLoads : Obligations.HalfwordLoads := by
  refine ⟨majorRow_reread (.lh 0 0 0) rfl rfl, majorRow_reread (.lhu 0 0 0) rfl rfl, ?_⟩
  rintro rt rs imm s ea rfl
  refine ⟨fun hal hheld => ?_, fun hal => ⟨?_, ?_⟩⟩
  · exact loads_extensions (size := .half) rfl rfl (aligned_iff.2 hal) hheld rfl
  · exact raises_of_misaligned_load (size := .half) rfl hal
  · exact raises_of_misaligned_load (size := .half) rfl hal

/-- Settles O29. -/
theorem wordLoads : Obligations.WordLoads := by
  refine ⟨majorRow_reread (.lw 0 0 0) rfl rfl, majorRow_reread (.lwu 0 0 0) rfl rfl, ?_⟩
  rintro rt rs imm s ea rfl
  refine ⟨fun hal hheld => ?_, fun hal => ⟨?_, ?_⟩⟩
  · exact loads_extensions (size := .word) rfl rfl (aligned_iff.2 hal) hheld rfl
  · exact raises_of_misaligned_load (size := .word) rfl hal
  · exact raises_of_misaligned_load (size := .word) rfl hal

/-! ## The word and the lanes of a store (R46) -/

/-- `TOP(n)` is the `n` highest bytes. -/
theorem laneTop_eq (size : AccessSize) : laneTop size = BitVec.allOnes 32 <<< (8 * (4 - size.bytes)) := by
  cases size <;> decide

/-- The lane mask cuts nothing off the value shifted to its lanes. -/
theorem writeWord_eq (size : AccessSize) (ea : Addr) (b : Value) :
    writeWord size ea b = (low32 b <<< (8 * (4 - size.bytes))) >>> laneShift ea := by
  rw [writeWord, laneMask, laneTop_eq, ← BitVec.ushiftRight_and_distrib, ← BitVec.shiftLeft_and_distrib,
    BitVec.and_allOnes]

/-- At a multiple of 4 the access begins at lane 0. -/
theorem laneShift_of_mod_four {ea : Addr} (h : ea.toNat % 4 = 0) : laneShift ea = 0 := by
  simp [laneShift, h]

/-! ## The store shape (R198) -/

/-- Writing bytes and retiring leaves all else as it was, but for EXMEM, the flow and the squash mask. -/
theorem State.retire_setBytes_frame (s : State) (w : LatchWrites) (l : List (Addr × Byte)) :
    SameRegs s ((s.setBytes l).retire w) ∧ SameLaunchAndWord s ((s.setBytes l).retire w) := by
  refine ⟨⟨fun r => ?_, fun r => ?_⟩, by simp [SameLaunchAndWord]⟩
  · rw [State.readX_retire, State.readX_congr (State.setBytes_x s l)]
  · rw [State.readC_retire, State.readC_congr (State.setBytes_c s l)]

section Store
variable {i : Instr} {s : State} {a b : Value} {imm : Imm} {size : AccessSize}

/-- An aligned store to writable bytes completes. Its word and mask, and what MemWrite leaves, are hypotheses, so that
each size can give them in the form its rule has. -/
theorem stores_of_exec {word mask : IWord} {after : Addr → Byte}
    (h : exec i s = s.complete (store s.deex a b imm size))
    (hal : aligned size (effectiveAddress a imm) = true) (hw : Writable s (effectiveAddress a imm) size)
    (hword : (low32 b <<< (8 * (4 - size.bytes))) >>> laneShift (effectiveAddress a imm) = word)
    (hmask : laneMask size (effectiveAddress a imm) = mask)
    (hafter : ∀ x, (s.memWrite (effectiveAddress a imm) b size).byteAt x = after x) :
    Stores i s (effectiveAddress a imm) size word mask after := by
  rw [store_of_aligned hal] at h
  have hnext := h.trans (State.complete_of_commit (hw.commitWrite_eq hal b))
  obtain ⟨hregs, hlaunch⟩ := State.retire_setBytes_frame s _ _
  refine ⟨_, hnext, ?_, fun x => ?_, hregs, hlaunch, by simp [SequentialFlow]⟩
  · rw [State.retire_exmem, writeWord_eq, hword, hmask]
  · rw [State.byteAt_retire, State.setBytes_selectedLanes s b hal, hafter]

/-- A misaligned store raises the alignment fault (R48). -/
theorem raises_of_misaligned_store (h : exec i s = s.complete (store s.deex a b imm size))
    (hal : (effectiveAddress a imm).toNat % size.bytes ≠ 0) :
    Raises i s .unalignedAddress (some (effectiveAddress a imm, .write)) :=
  raises_of_exec h (store_of_misaligned (aligned_eq_false_iff.2 hal) b)

end Store

/-- Settles O30: a byte is always aligned. -/
theorem byteStore : Obligations.ByteStore := by
  refine ⟨majorRow_reread (.sb 0 0 0) rfl rfl, ?_⟩
  rintro rt rs imm s ea rfl hw
  exact stores_of_exec (size := .byte) rfl (aligned_byte _) hw rfl rfl fun x => s.byteAt_setByte _ x _

/-- Settles O31. -/
theorem halfwordStore : Obligations.HalfwordStore := by
  refine ⟨majorRow_reread (.sh 0 0 0) rfl rfl, ?_⟩
  rintro rt rs imm s ea rfl
  refine ⟨fun hal hw => ?_, fun hal => raises_of_misaligned_store (size := .half) rfl hal⟩
  exact stores_of_exec (size := .half) rfl (aligned_iff.2 hal) hw rfl rfl fun x => s.byteAt_memWrite_half _ x _

/-- Settles O32: the whole bus word is written, from lane 0. -/
theorem wordStore : Obligations.WordStore := by
  refine ⟨majorRow_reread (.sw 0 0 0) rfl rfl, ?_⟩
  rintro rt rs imm s ea rfl
  refine ⟨fun hal hw => ?_, fun hal => raises_of_misaligned_store (size := .word) rfl hal⟩
  have hlane : laneShift (effectiveAddress (s.readX rs) imm) = 0 := laneShift_of_mod_four hal
  refine stores_of_exec (size := .word) rfl (aligned_iff.2 hal) hw ?_ ?_ fun x => s.byteAt_memWrite_word _ x _
  · simp [hlane, low32, AccessSize.bytes]
  · rw [laneMask, hlane]
    rfl

/-! ## The reserved size code (R202) -/

/-- Size code 2 is none (R74). -/
@[simp] theorem sizeOfCode_reserved : sizeOfCode 2#2 = none := rfl

/-- Settles O33: both handlers look at the size code first. -/
theorem reservedSizeCode : Obligations.ReservedSizeCode := by
  intro e a b h
  rw [handleLoad, handleStore, h, sizeOfCode_reserved]
  exact ⟨rfl, rfl⟩

end Sys2Proof.Machine

/-! # The move to a control register (44_control_move.md) -/

namespace Sys2Proof.Machine

/-- Settles O41: the word matches the COP0 row (R65), and the handler's outcome is a result alone (R220). -/
theorem moveToControl : Obligations.MoveToControl := by
  refine ⟨fun w hop hrs => ?_, fun rt rd s => ?_⟩
  · exact decode_of_matches (.mtc0 0 0) ((matches_cop0 rfl).2 ⟨hop, hrs⟩)
  · have hexec : exec (.mtc0 rt rd) s = s.complete (resultOnly (crDest rd) (sext32 (s.readX rt))) := rfl
    exact computes_of_exec hexec rfl

end Sys2Proof.Machine

/-! # The word that decodes to no instruction (45_invalid.md) -/

namespace Sys2Proof.Machine

/-- The step of a machine that fetches `w` is the handling of the latch loaded with it (R270 steps 3 and 4). -/
theorem step_of_fetches {s : State} {p : Addr} {w : IWord} (h : Fetches s p w) :
    step s = handleLoaded (s.loadDeex w) := by
  obtain ⟨hs, hpc, hend, hw⟩ := h
  have hprime : s.prime = s := State.prime_of_some hpc
  rw [step_of_fetch hs (by rwa [hprime]) (by rwa [hprime]), hprime]

/-- INVALID records its fault with the word and the pc of the latch (R225, R226). -/
theorem execInvalid_eq (s : State) :
    execInvalid s = .next (s.takeFault (s.deex.faultInfo .unimplementedOpcode none)) :=
  State.complete_fault s _

/-- Settles O46: the latch holds the masked word and the address it was fetched from; INVALID's handler records both. -/
theorem invalidWordFaults : Obligations.InvalidWordFaults := by
  intro s p w e hf hd
  have haddr : s.fetchAddr = p := by
    obtain ⟨-, hpc, -⟩ := hf
    exact State.fetchAddr_of_some hpc
  rw [step_of_fetches hf, handleLoaded_of_error (s := s.loadDeex w) hd, execInvalid_eq, ← haddr]
  rfl

end Sys2Proof.Machine

/-! # Faults (60_exceptions.md): what can raise one, what it leaves, what happens after it -/

namespace Sys2Proof.Machine

/-! ## Which handler shapes can fault (R111, R190, R198) -/

theorem resultOnly_ne_fault {d : Dest} {v : Value} {f : FaultInfo} : resultOnly d v ≠ .fault f := by
  intro h
  cases h

theorem branch_ne_fault {e : DeexLatch} {taken likely link : Bool} {imm : Imm} {f : FaultInfo} :
    branch e taken likely link imm ≠ .fault f := by
  intro h
  cases h

theorem jump_ne_fault {e : DeexLatch} {a : Value} {d : Dest} {f : FaultInfo} : jump e a d ≠ .fault f := by
  intro h
  cases h

/-- The add/subtract shape faults in its trapping forms alone. -/
theorem addSub_eq_fault {e : DeexLatch} {a b : Value} {sub trap : Bool} {d : Dest} {f : FaultInfo}
    (h : addSub e a b sub trap d = .fault f) : trap = true ∧ f = e.faultInfo .integerOverflow none := by
  obtain ⟨htrap, -, hfault⟩ | ⟨-, hok⟩ := addSub_cases e a b sub trap d
  · rw [hfault] at h
    cases h
    exact ⟨htrap, rfl⟩
  · rw [hok] at h
    cases h

section Access

variable {e : DeexLatch} {a b : Value} {imm : Imm} {size : AccessSize} {f : FaultInfo}

/-- A load that faults is misaligned, so it is no byte load. -/
theorem load_eq_fault {z : Bool} {d : Dest} (h : load e a imm size z d = .fault f) :
    size ≠ .byte ∧ f = e.faultInfo .unalignedAddress (some (effectiveAddress a imm, .read)) := by
  cases hal : aligned size (effectiveAddress a imm)
  · rw [load_of_misaligned hal] at h
    cases h
    refine ⟨?_, rfl⟩
    rintro rfl
    exact absurd (aligned_byte _) (hal ▸ Bool.false_ne_true)
  · rw [load_of_aligned hal] at h
    cases h

/-- A store that faults is misaligned, so it is no byte store. -/
theorem store_eq_fault (h : store e a b imm size = .fault f) :
    size ≠ .byte ∧ f = e.faultInfo .unalignedAddress (some (effectiveAddress a imm, .write)) := by
  cases hal : aligned size (effectiveAddress a imm)
  · rw [store_of_misaligned hal] at h
    cases h
    refine ⟨?_, rfl⟩
    rintro rfl
    exact absurd (aligned_byte _) (hal ▸ Bool.false_ne_true)
  · rw [store_of_aligned hal] at h
    cases h

end Access

/-- An instruction's fault carries the pc and the word of the latch (R231). -/
theorem HandlerShape.fault_pc_iw {s : State} {i : Instr} {o : HandlerOutcome} {f : FaultInfo}
    (ho : HandlerShape s i o) (h : o = .fault f) : f.pc = s.deex.currentPc ∧ f.iw = s.deex.iw := by
  cases ho with
  | addSub a b sub trap r =>
    obtain ⟨-, rfl⟩ := addSub_eq_fault h
    exact ⟨rfl, rfl⟩
  | load a imm size z r =>
    obtain ⟨-, rfl⟩ := load_eq_fault h
    exact ⟨rfl, rfl⟩
  | store a b imm size =>
    obtain ⟨-, rfl⟩ := store_eq_fault h
    exact ⟨rfl, rfl⟩
  | result | moveToControl => exact absurd h resultOnly_ne_fault
  | branch => exact absurd h branch_ne_fault
  | jump => exact absurd h jump_ne_fault

/-- If a running machine has a fault recorded after a handler, the handler raised it, and nothing else was done. -/
theorem State.complete_faulted {s t : State} {o : HandlerOutcome} {f : FaultInfo} (hs : s.status = .running)
    (h : s.complete o = .next t) (ht : t.status = .faulted f) : o = .fault f ∧ t = s.takeFault f := by
  obtain ⟨g, rfl, rfl⟩ | ⟨w, u, -, hu, rfl⟩ := State.complete_next h
  · cases ht
    exact ⟨rfl, rfl⟩
  · obtain ⟨-, -, -, -, -, hstatus⟩ := State.commit_frame hu
    rw [State.retire_status, hstatus, hs] at ht
    cases ht

/-! ## What each instruction can raise (R230, R236) -/

/-- R230's table, INVALID's row left out: the instruction can raise the fault. -/
def FaultInfo.RaisableBy (f : FaultInfo) (i : Instr) : Prop :=
  (f.kind = .integerOverflow ∧ f.access = none ∧ i.mnemonic ∈ ["ADD", "SUB", "ADDI"]) ∨
  (f.kind = .unalignedAddress ∧ (∃ ea, f.access = some (ea, .read)) ∧ i.mnemonic ∈ ["LH", "LHU", "LW", "LWU"]) ∨
  (f.kind = .unalignedAddress ∧ (∃ ea, f.access = some (ea, .write)) ∧ i.mnemonic ∈ ["SH", "SW"])

section RaisableBy

variable {i : Instr} {e : DeexLatch} {a b : Value} {imm : Imm} {size : AccessSize} {f : FaultInfo}

theorem raisableBy_of_addSub {sub trap : Bool} {d : Dest} (hi : i.mnemonic ∈ ["ADD", "SUB", "ADDI"])
    (h : addSub e a b sub trap d = .fault f) : f.RaisableBy i := by
  obtain ⟨-, rfl⟩ := addSub_eq_fault h
  exact .inl ⟨rfl, rfl, hi⟩

theorem raisableBy_of_load {z : Bool} {d : Dest} (hi : i.mnemonic ∈ ["LH", "LHU", "LW", "LWU"])
    (h : load e a imm size z d = .fault f) : f.RaisableBy i := by
  obtain ⟨-, rfl⟩ := load_eq_fault h
  exact .inr (.inl ⟨rfl, ⟨_, rfl⟩, hi⟩)

theorem raisableBy_of_store (hi : i.mnemonic ∈ ["SH", "SW"]) (h : store e a b imm size = .fault f) : f.RaisableBy i := by
  obtain ⟨-, rfl⟩ := store_eq_fault h
  exact .inr (.inr ⟨rfl, ⟨_, rfl⟩, hi⟩)

end RaisableBy

/-- The meaning of an instruction completes an outcome that, if it is a fault, is one that the instruction can raise. -/
theorem exec_eq_complete_raisableBy (i : Instr) (s : State) :
    ∃ o, exec i s = s.complete o ∧ ∀ f, o = .fault f → f.RaisableBy i := by
  cases i
  case add | sub | addi =>
    refine ⟨_, rfl, fun _ => raisableBy_of_addSub ?_⟩
    simp [Instr.mnemonic]
  case lh | lhu | lw | lwu =>
    refine ⟨_, rfl, fun _ => raisableBy_of_load ?_⟩
    simp [Instr.mnemonic]
  case sh | sw =>
    refine ⟨_, rfl, fun _ => raisableBy_of_store ?_⟩
    simp [Instr.mnemonic]
  case addu | subu | addiu =>
    exact ⟨_, rfl, fun _ h => absurd (addSub_eq_fault (e := s.deex) h).1 Bool.false_ne_true⟩
  case lb | lbu => exact ⟨_, rfl, fun _ h => absurd rfl (load_eq_fault h).1⟩
  case sb => exact ⟨_, rfl, fun _ h => absurd rfl (store_eq_fault h).1⟩
  case and | or | xor | andi | ori | xori | lui | sll | srl | mtc0 =>
    exact ⟨_, rfl, fun _ h => absurd h resultOnly_ne_fault⟩
  case beq | bne | beql | bnel | bltz | bgez | bltzl | bgezl | bltzal | bgezal | bltzall | bgezall | blez | bgtz
    | blezl | bgtzl => exact ⟨_, rfl, fun _ h => absurd h branch_ne_fault⟩
  case jr | jalr => exact ⟨_, rfl, fun _ h => absurd h jump_ne_fault⟩

/-- Settles O44: the fault recorded is the one that the instruction's outcome is. -/
theorem faultsByInstruction : Obligations.FaultsByInstruction := by
  intro i s t f hs h ht
  obtain ⟨o, he, ho⟩ := exec_eq_complete_raisableBy i s
  obtain ⟨hfault, -⟩ := State.complete_faulted hs (he ▸ h) ht
  exact ho f hfault

/-! ## What a fault leaves unchanged (R232, R234) -/

/-- If handling the word in the latch of a running machine ends in a fault, nothing but its record is written; it
carries the pc and the word of the latch, an instruction's as well as INVALID's (R226). -/
theorem handleLoaded_faulted {s t : State} {f : FaultInfo} (hs : s.status = .running)
    (h : handleLoaded s = .next t) (ht : t.status = .faulted f) :
    t = s.takeFault f ∧ f.pc = s.deex.currentPc ∧ f.iw = s.deex.iw := by
  obtain ⟨_, -, rfl⟩ | ⟨i, o, -, ho, hc⟩ := handleLoaded_next h
  · cases ht
    exact ⟨rfl, rfl, rfl⟩
  · obtain ⟨hfault, rfl⟩ := State.complete_faulted hs hc ht
    exact ⟨rfl, ho.fault_pc_iw hfault⟩

/-- Settles O45: the end of a run records no fault, and taking one writes the status alone, after the latch load, which
writes the latch alone. -/
theorem faultingStepWritesNothing : Obligations.FaultingStepWritesNothing := by
  intro s t f h ht
  obtain ⟨hs, ⟨-, rfl⟩ | ⟨-, w, hw, hc⟩⟩ := step_next h
  · cases ht
  · obtain ⟨rfl, hpc, hiw⟩ := handleLoaded_faulted (s := s.prime.loadDeex w) ((State.prime_status s).trans hs) hc ht
    have hregs : SameRegs s ((s.prime.loadDeex w).takeFault f) :=
      ⟨State.readX_congr (State.prime_x s), State.readC_congr (State.prime_c s)⟩
    exact ⟨w, hw, rfl, by simpa using hpc, by simpa using hiw, hregs, State.byteAt_congr (State.prime_mem s),
      State.prime_exmem s, rfl, rfl⟩

/-! ## After a fault (R233) -/

theorem step_of_faulted {s : State} {f : FaultInfo} (h : s.status = .faulted f) :
    step s = .fault (.afterFault f) := by
  simp [step, h]

theorem step_of_ended {s : State} (h : s.status = .ended) : step s = .fault .afterEnd := by simp [step, h]

/-- Settles O50. -/
theorem stoppedMachineTakesNoStep : Obligations.StoppedMachineTakesNoStep :=
  fun _ _ => ⟨step_of_faulted, step_of_ended⟩

/-- The driver's action in a state with a fault recorded, written out (R233 (b) to (d)). -/
theorem State.driverRedirect_of_faulted {s : State} {f : FaultInfo} (h : s.status = .faulted f) :
    s.driverRedirect = { s with
      pc := none
      fetchNextPc := Config.faultVector f.kind
      deex := emptyDeex
      exmem := bubble
      status := .running } := by
  simp [State.driverRedirect, h]

/-- Settles O60: of the registers, the memory and the launch the action writes nothing. -/
theorem driverRedirectsToVector : Obligations.DriverRedirectsToVector := by
  intro s f h
  rw [State.driverRedirect_of_faulted h]
  exact ⟨⟨fun _ => rfl, fun _ => rfl⟩, fun _ => rfl, rfl, rfl, rfl, rfl, rfl, rfl, rfl, rfl, rfl⟩

end Sys2Proof.Machine

/-! # The run and its hazards (70_reset_and_hazards.md): the program text, the end of the run, the squashed slot, the
address recurrence -/

namespace Sys2Proof.Machine

/-! ## The program text (R56, R285) -/

/-- `t` has the program text of `s`, as a range and byte for byte. -/
def KeepsText (s t : State) : Prop := t.text = s.text ∧ ∀ a, s.inText a = true → t.byteAt a = s.byteAt a

theorem KeepsText.of_eq {s t : State} (htext : t.text = s.text) (hmem : t.mem = s.mem) : KeepsText s t :=
  ⟨htext, fun a _ => State.byteAt_congr hmem a⟩

/-- Which addresses are in the text depends on the text alone. -/
theorem State.inText_congr {s t : State} (h : t.text = s.text) (a : Addr) : t.inText a = s.inText a := by
  simp only [State.inText, h]

theorem KeepsText.trans {s t u : State} (hst : KeepsText s t) (htu : KeepsText t u) : KeepsText s u := by
  obtain ⟨hst, hbytes⟩ := hst
  obtain ⟨htu, hbytes'⟩ := htu
  refine ⟨htu.trans hst, fun a ha => ?_⟩
  rw [hbytes' a (by rwa [State.inText_congr hst]), hbytes a ha]

/-- Only a store writes bytes, and one that commits selects none in the text (R56). -/
theorem State.keepsText_of_commit {s t : State} {w : LatchWrites} (h : s.commit w = .ok t) : KeepsText s t := by
  obtain ⟨-, rfl⟩ | ⟨r, -, -, -, rfl⟩ | ⟨r, -, -, hnone, -, rfl⟩ := State.commit_ok h
  · exact .of_eq (State.writeDest_text ..) (State.writeDest_mem ..)
  · exact .of_eq (State.writeDest_text ..) (State.writeDest_mem ..)
  · refine ⟨State.setBytes_text .., fun a ha => State.byteAt_setBytes_of_not_mem s _ a ?_⟩
    rintro c hc rfl
    exact List.find?_eq_none.1 hnone c.1 (List.mem_map_of_mem hc) ha

/-- Completing an outcome keeps the text: recording a fault and retiring write no byte. -/
theorem State.keepsText_of_complete {s t : State} {o : HandlerOutcome} (h : s.complete o = .next t) :
    KeepsText s t := by
  obtain ⟨f, -, rfl⟩ | ⟨w, u, -, hu, rfl⟩ := State.complete_next h
  · exact .of_eq rfl rfl
  · exact (State.keepsText_of_commit hu).trans (.of_eq rfl rfl)

/-- Settles O54: the end of the run and the latch load write no byte, and the word handled completes some outcome. -/
theorem programTextImmutable : Obligations.ProgramTextImmutable := by
  intro s t h
  obtain ⟨-, ⟨-, rfl⟩ | ⟨-, w, -, hc⟩⟩ := step_next h
  · exact KeepsText.of_eq (State.prime_text s) (State.prime_mem s)
  · rw [handleLoaded_eq_complete rfl] at hc
    have hload : KeepsText s (s.prime.loadDeex w) := .of_eq (State.prime_text s) (State.prime_mem s)
    exact hload.trans (State.keepsText_of_complete hc)

/-! ## The end of the run (R274) -/

theorem State.atEnd_iff (s : State) :
    s.atEnd = true ↔ ∃ x, s.text = some x ∧ s.fetchAddr = x.limit ∧ s.fetchNextPc = x.limit + 4 ∧
      s.deex.iwSquashMask = maskNormal := by
  unfold State.atEnd
  cases s.text <;> simp [and_assoc]

/-- The step of a running machine whose run is at its end. -/
theorem step_of_atEnd {s : State} (hs : s.status = .running) (he : s.prime.atEnd = true) :
    step s = .next s.prime.endRun := by
  simp [step, stepRunning, hs, he]

/-- No handler ends a run: a running machine runs on, or has a fault recorded. -/
theorem State.complete_ne_ended {s t : State} {o : HandlerOutcome} (hs : s.status = .running)
    (h : s.complete o = .next t) : t.status ≠ .ended := by
  obtain ⟨f, -, rfl⟩ | ⟨w, u, -, hu, rfl⟩ := State.complete_next h
  · exact nofun
  · obtain ⟨-, -, -, -, -, hstatus⟩ := State.commit_frame hu
    rw [State.retire_status, hstatus, hs]
    exact nofun

/-- A running machine's step answers status Ended only where the end-of-run condition holds. -/
theorem atEnd_of_step_ended {s t : State} (h : step s = .next t) (ht : t.status = .ended) : s.prime.atEnd = true := by
  obtain ⟨hs, ⟨he, -⟩ | ⟨-, w, -, hc⟩⟩ := step_next h
  · exact he
  · rw [handleLoaded_eq_complete rfl] at hc
    have hload : (s.prime.loadDeex w).status = .running := (State.prime_status s).trans hs
    exact absurd ht (State.complete_ne_ended hload hc)

/-- Settles O49: the condition is `atEnd`, under which the step ends the run and without which no step does. -/
theorem runEndsAtTextEnd : Obligations.RunEndsAtTextEnd := by
  intro s p hs hpc
  have hprime : s.prime = s := State.prime_of_some hpc
  have hend := s.atEnd_iff
  rw [State.fetchAddr_of_some hpc] at hend
  refine hend.symm.trans ⟨fun he => ?_, fun h => ?_⟩
  · rw [step_of_atEnd hs (by rwa [hprime]), hprime]
    rfl
  · exact hprime ▸ atEnd_of_step_ended h rfl

/-! ## The squashed slot (R22, R23, R281) -/

/-- The word 0 is SLL of register 0 by 0 (R75). -/
theorem decode_zero : decode 0#32 = .ok (.sll 0#5 0#5 0) := by decide

/-- SLL of register 0 by 0 is the no-op (R75): it completes, and nothing but EXMEM and the flow is written. -/
theorem handleLoaded_zero {s : State} (h : s.deex.iw = 0#32) :
    ∃ v, handleLoaded s = .next (s.retire ⟨v, 0#6, none, none, none⟩) := by
  have hexec : exec (.sll 0#5 0#5 0) s = s.complete (resultOnly 0#6 (shiftLeft (s.readX 0#5) 0)) := rfl
  rw [handleLoaded_of_ok (h ▸ decode_zero), hexec, resultOnly, State.complete_of_req_none s rfl, State.writeDest_zero]
  exact ⟨_, rfl⟩

/-- Settles O51: the SQUASHED mask makes the word in the latch 0, whatever was fetched. -/
theorem squashedSlotDoesNothing : Obligations.SquashedSlotDoesNothing := by
  intro s p w hf hmask
  have hiw : (s.loadDeex w).deex.iw = 0#32 := by simp [hmask]
  have hid : (s.loadDeex w).deex.opcodeId = .sll := (congrArg decodeId hiw).trans (decodeId_of_ok decode_zero)
  obtain ⟨v, hv⟩ := handleLoaded_zero hiw
  have hstep := (step_of_fetches hf).trans hv
  obtain ⟨hs, -⟩ := hf
  exact ⟨_, hstep, ⟨fun _ => rfl, fun _ => rfl⟩, fun _ => rfl, hs, rfl, hiw, hid, rfl, rfl, rfl⟩

/-! ## The address recurrence (R27, R272) -/

/-- The handler of a step is the dispatch table's entry for the word loaded, on operands that are read in the state
before the step (R18, R93): the latch load gives the latch the opcode id of its word and touches no register. -/
theorem State.handlerOutcome_atHandler (s : State) (w : IWord) :
    (s.atHandler w).handlerOutcome =
      dispatch (decodeId (s.atHandler w).deex.iw) (s.atHandler w).deex
        (s.readX (fieldRs (s.atHandler w).deex.iw)) (s.readX (fieldRt (s.atHandler w).deex.iw)) := by
  have hread : ∀ r, (s.atHandler w).readX r = s.readX r := State.readX_congr (State.prime_x s)
  rw [State.handlerOutcome, hread, hread]
  rfl

/-- Settles O52. -/
theorem addressRecurrence : Obligations.AddressRecurrence := by
  intro s t h ht
  obtain ⟨w, o, hw, ho, hflow⟩ := step_next_running h ht
  exact ⟨w, o, hw, State.handlerOutcome_atHandler s w ▸ ho, hflow⟩

end Sys2Proof.Machine
